-- ==== Sys2Proof/Word.lean ====
section
/-! DEFINITION. The two widths the spec moves: the 32-bit register (10_state.md R7, R42) and the byte of
program text. -/

namespace Sys2Proof

/-- A 32-bit register: DBGBCR<n> (R7) or `x[t]` (R42). Bit 0 is the least significant bit. -/
abbrev Word := BitVec 32

/-- One byte of program text. -/
abbrev Byte := BitVec 8

end Sys2Proof
end

