-- ==== Sys2Proof/Syntax.lean ====
section
/-! DEFINITION. The instructions: one constructor per row of spec/opcode_table.json, the coordinates of a
System register (20_memory.md R46) and the assembler line (30_encoding.md R54, R55). -/

namespace Sys2Proof

/-- The two instruction sets of AArch32 state whose layouts 30_encoding.md gives (R58, R59). -/
inductive InstrSet where
  | a32 | t32
  deriving DecidableEq, Repr

/-- The direction of the abstract instruction record of R56. -/
inductive Dir where
  /-- MRC: the register is read. -/
  | read
  /-- MCR: the register is written. -/
  | write
  deriving DecidableEq, Repr

/-- The instructions of spec/opcode_table.json, one constructor per row: `t` is the number of Rt, `n` the
register index UInt(CRm) (R57), `cond` the condition field an A32 word carries (R58). -/
inductive Instr where
  /-- Row 1: A32 MRC p14, 0, Rt, c0, c<n>, 5 (R58, R69). -/
  | mrcA32 (cond : BitVec 4) (t n : Fin 16)
  /-- Row 2: A32 MCR p14, 0, Rt, c0, c<n>, 5 (R58, R70). -/
  | mcrA32 (cond : BitVec 4) (t n : Fin 16)
  /-- Row 3: T32 MRC p14, 0, Rt, c0, c<n>, 5 (R59, R69). -/
  | mrcT32 (t n : Fin 16)
  /-- Row 4: T32 MCR p14, 0, Rt, c0, c<n>, 5 (R59, R70). -/
  | mcrT32 (t n : Fin 16)
  deriving DecidableEq, Repr

/-- The condition field value of "always" (R58). -/
def condAlways : BitVec 4 := 0b1110

/-- The instruction set an instruction's words belong to. -/
def Instr.set : Instr → InstrSet
  | .mrcA32 _ _ _ => .a32
  | .mcrA32 _ _ _ => .a32
  | .mrcT32 _ _ => .t32
  | .mcrT32 _ _ => .t32

/-- The direction of an instruction: with `Instr.rt` and `Instr.index` the decoded record of R56. -/
def Instr.dir : Instr → Dir
  | .mrcA32 _ _ _ => .read
  | .mcrA32 _ _ _ => .write
  | .mrcT32 _ _ => .read
  | .mcrT32 _ _ => .write

/-- The number of Rt (R56, R57). -/
def Instr.rt : Instr → Fin 16
  | .mrcA32 _ t _ => t
  | .mcrA32 _ t _ => t
  | .mrcT32 t _ => t
  | .mcrT32 t _ => t

/-- The register index n (R56, R57). -/
def Instr.index : Instr → Fin 16
  | .mrcA32 _ _ n => n
  | .mcrA32 _ _ n => n
  | .mrcT32 _ n => n
  | .mcrT32 _ n => n

/-- The five numbers that name an AArch32 System register (R46). -/
structure Coordinates where
  coproc : BitVec 4
  opc1 : BitVec 3
  crn : BitVec 4
  crm : BitVec 4
  opc2 : BitVec 3
  deriving DecidableEq, Repr

/-- The coordinates of DBGBCR<n> (R46, R56): coproc 0b1110, opc1 0b000, CRn 0b0000, CRm n[3:0], opc2 0b101. -/
def dbgbcrAt (n : Fin 16) : Coordinates :=
  { coproc := 0b1110, opc1 := 0b000, crn := 0b0000, crm := BitVec.ofFin n, opc2 := 0b101 }

/-- The width qualifier `<q>` (30_encoding.md table after R55). -/
inductive Qualifier where
  /-- `.N`. -/
  | narrow
  /-- `.W`. -/
  | wide
  deriving DecidableEq, Repr

/-- An assembler line of R54 (read) or R55 (write): the operands in the order written, `none` for an omitted
`<c>`, `<q>` or `<opc2>`. -/
structure AsmLine where
  dir : Dir
  cond : Option (BitVec 4)
  qualifier : Option Qualifier
  coproc : BitVec 4
  opc1 : BitVec 3
  rt : Fin 16
  crn : BitVec 4
  crm : BitVec 4
  opc2 : Option (BitVec 3)
  deriving DecidableEq, Repr

end Sys2Proof
end

