-- ==== Sys2Proof/Machine/Context.lean ====
section
/-! DEFINITION. State outside the bank that the rules read: the Exception level (10_state.md R43), the
context record `ctx` (R41) and the companion state of the breakpoints (R40). -/

namespace Sys2Proof.Machine

/-- `PSTATE.EL`, the current Exception level: the four values the access pseudocode compares it with (R43). -/
inductive EL where
  | el0 | el1 | el2 | el3
  deriving DecidableEq, Repr

/-- The context record of R41: what the access pseudocode tests beside the bank and `PSTATE.EL`. The fields
are independent and under no constraint (92 D13). A bit is held as a Bool, `true` for 1. -/
structure Context where
  /-- `Halted()`. -/
  halted : Bool
  /-- `HaveEL(EL3)`: configuration, carried in the record as R41 carries it. -/
  haveEL3 : Bool
  /-- `EDSCR.SDD`. -/
  edscrSdd : Bool
  /-- `EDSCR.TDA`. -/
  edscrTda : Bool
  /-- `ELUsingAArch32(EL3)`: "state or configuration" (R41); state in this model (log 28). -/
  el3UsingAArch32 : Bool
  /-- `ELUsingAArch32(EL2)`. -/
  el2UsingAArch32 : Bool
  /-- `MDCR_EL3.TDA`. -/
  mdcrEl3Tda : Bool
  /-- `EL2Enabled()`. -/
  el2Enabled : Bool
  /-- `MDCR_EL2.TDE`. -/
  mdcrEl2Tde : Bool
  /-- `MDCR_EL2.TDA`. -/
  mdcrEl2Tda : Bool
  /-- `HDCR.TDE`. -/
  hdcrTde : Bool
  /-- `HDCR.TDA`. -/
  hdcrTda : Bool
  /-- `DBGOSLSR.OSLK`. -/
  oslk : Bool
  /-- `HaltingAllowed()`. -/
  haltingAllowed : Bool
  deriving DecidableEq, Repr

/-- The companion state of R40. The source gives no width, so each register is an opaque value, held as a
natural number that nothing adds to or masks (log 16). The fields of DBGBVR<n> and DBGBXVR<n> are uninterpreted
projections (`Config.contextIdOf`, `Config.vmidOf`, `Config.contextId2Of`). -/
structure Companion where
  /-- DBGBVR<n>. -/
  bvr : Vector Nat 16
  /-- DBGBXVR<n>; it exists where R6's condition holds. -/
  bxvr : Vector Nat 16
  /-- CONTEXTIDR (row name CONTEXTIDR_EL1, 90 C3). -/
  contextidr : Nat
  /-- CONTEXTIDR_EL2. -/
  contextidrEl2 : Nat
  /-- VTTBR.VMID. -/
  vttbrVmid : Nat
  /-- The Effective value of HCR_EL2.E2H is 1. -/
  effectiveE2H : Bool
  /-- HCR_EL2.TGE. -/
  hcrTge : Bool
  deriving DecidableEq, Repr

/-- What an address comparison of a breakpoint may depend on beside the address it looks for: the instruction
that is about to be executed, and where (91 N8, log 10). -/
structure Situation where
  /-- The address of the instruction. -/
  pc : Nat
  /-- The instruction set it is read in. -/
  iset : InstrSet
  /-- The Exception level. -/
  el : EL
  /-- The context record. -/
  ctx : Context
  deriving DecidableEq, Repr

end Sys2Proof.Machine
end

