-- ==== Sys2Proof/Machine/Inputs.lean ====
section
/-! DEFINITION. What the outside does to the machine between two instructions (log 15). -/

namespace Sys2Proof.Machine

/-- What a reset leaves that the source does not fix (70_reset_and_hazards.md R90, 92 D19: "unconstrained launch
inputs"). -/
structure Launch where
  x : Vector Word 15
  el : EL
  pc : Nat
  iset : InstrSet
  ctx : Context
  companion : Companion
  deriving DecidableEq, Repr

/-- The two views of DBGBCR<n> beside the AArch32 one (20_memory.md R45), through which agents outside this
machine write it (R52). -/
inductive View where
  /-- The AArch64 System register DBGBCR<n>_EL1. -/
  | aarch64
  /-- The External register DBGBCR<n>_EL1. -/
  | external
  deriving DecidableEq, Repr

/-- What the outside does to the machine between two instructions (log 15). -/
inductive Input where
  /-- A Cold reset (R87, R89, R90). -/
  | coldReset (launch : Launch)
  /-- A Warm reset (R88, R89, R90). -/
  | warmReset (launch : Launch)
  /-- A write of all 32 bits of DBGBCR<n> through another view (R45, R52). -/
  | viewWrite (view : View) (n : Fin 16) (value : Word)
  /-- The context record changes (R41, R85); HaveEL3 is configuration and stays. -/
  | contextChange (ctx : Context)
  /-- The companion registers change (R40): no instruction in scope writes them. -/
  | companionChange (companion : Companion)
  deriving DecidableEq, Repr

end Sys2Proof.Machine
end

