-- ==== Sys2Proof/Config.lean ====
section
/-! DEFINITION. What an implementation fixes (00_scope.md R4), and the free values: opaque constants with no
body, so that a claim holds whatever they are. -/

namespace Sys2Proof

/-- When a write of DBGBCR<n> starts to govern breakpoint generation: the three choices of 92 D18. -/
inductive WriteEffect where
  /-- (a): only read-back is claimed. Treated as (c), which admits every event (log 11). -/
  | readBackOnly
  /-- (b): effective from the next instruction. -/
  | nextInstruction
  /-- (c): the event stays possible to the end of the run once n was enabled in it. -/
  | wholeRun
  deriving DecidableEq, Repr

/-- The implementation parameters of R4 that are plain values. Where R4 lets a parameter be "left as a free
choice", `none` is that. -/
structure Implementation where
  /-- `HaveAnyAArch32` (R2). -/
  haveAnyAArch32 : Bool
  /-- `implemented(n)` (R3). -/
  implemented : Vector Bool 16
  /-- `ctx_capable(n)` (R6). -/
  ctxCapable : Vector Bool 16
  /-- `HaveEL2` (R6). -/
  haveEL2 : Bool
  /-- `HaveVHE` (R16). -/
  haveVHE : Bool
  /-- `EL3_TRAP_PRIORITY_WHEN_SDD` (R64, R65). -/
  el3TrapPriorityWhenSdd : Bool
  /-- `UNIMPL_CHECK_FIRST` (R68); `none`: not fixed, a free choice per access. -/
  unimplCheckFirst : Option Bool
  /-- `RES0_STORES` (R10); `none`: not fixed, a free choice per bit and read. -/
  res0Stores : Option Bool
  /-- `permitted_BT(n, bt)` (R13): for each n, the BT values that are not reserved. -/
  permittedBT : Vector (List (BitVec 4)) 16
  /-- `permitted_exec(HMC, SSC, PMC)` (R31 to R33): the combinations that are not reserved. -/
  permittedExec : List (BitVec 1 × BitVec 2 × BitVec 2)
  /-- `WRITE_EFFECT` (20_memory.md R51). -/
  writeEffect : WriteEffect
  deriving DecidableEq, Repr

/-- One comparison that a BT row of R14 to R29 makes, with the values compared. What "match" computes on bits is
in no source (91 N8). -/
inductive Comparison where
  /-- R14 with R34: the instruction matched is at this address; BAS selects these halfwords. -/
  | instructionAt (address : Nat) (halfwords : List Nat)
  /-- R18 with R35: the instruction stepped is at this address; BAS selects these halfwords. -/
  | instructionStepped (address : Nat) (halfwords : List Nat)
  /-- R35, BAS = 0b0000: "match anywhere", no instruction address is exempt. -/
  | steppedAnywhere
  /-- DBGBVR<n>.ContextID, or DBGBXVR<n>.ContextID2, against a Context ID. -/
  | contextId (value against : Nat)
  /-- DBGBXVR<n>.VMID against VTTBR.VMID. -/
  | vmid (value against : Nat)
  deriving DecidableEq, Repr

/-- What linking may depend on of one breakpoint: nothing that the rules call ignored (R9 to R12, R30, R36) is in
it (log 27). -/
structure BreakpointView where
  /-- `implemented(n)` (R3). -/
  implemented : Bool
  /-- Its value is not known (R87). -/
  unknown : Bool
  /-- The value of DBGBCR<n> with every ignored and every RES0 bit at a fixed value. -/
  control : Word
  /-- The comparisons its type makes, with the values compared; none when it is disabled. -/
  compares : List Comparison
  deriving DecidableEq, Repr

namespace Config

open Sys2Proof.Machine

/-- FREE VALUE: the k-th `draw_32` (00_scope.md section 5, 93 U1). Applied to the counter `State.draws`,
so two draws need not agree (log 9). -/
opaque freeWord : Nat → Word

/-- FREE VALUE: the choice left open where `UNIMPL_CHECK_FIRST` is not fixed (R68, log 12). -/
opaque freeChoice : Nat → Bool

/-- FREE VALUE: whether, and for which breakpoint, a Breakpoint debug event is asked for (R80, log 10). -/
opaque freeEvent : Nat → Option (Fin 16)

/-- UNINTERPRETED: `ExecCond(HMC, SSC, PMC, ctx)` (10_state.md after R33), at an Exception level. -/
opaque execCond : BitVec 1 → BitVec 2 → BitVec 2 → Context → EL → Bool

/-- UNINTERPRETED: whether the instruction about to be executed is the one at the address, as BAS selects
halfwords of it (91 N8). -/
opaque instructionMatches : Nat → List Nat → Situation → Bool

/-- UNINTERPRETED: whether the instruction about to be executed is one for which a mismatch breakpoint with this
address and these halfwords generates its event (91 N8). -/
opaque instructionStepped : Nat → List Nat → Situation → Bool

/-- UNINTERPRETED: whether two Context IDs match (91 N8). -/
opaque contextIdMatches : Nat → Nat → Bool

/-- UNINTERPRETED: whether two VMIDs match (91 N8). -/
opaque vmidMatches : Nat → Nat → Bool

/-- UNINTERPRETED: whether linking allows the event of the linked breakpoint n (BT[0] = 1), given the breakpoint
LBN names where the type uses LBN, and the sixteen breakpoints (91 N9). MODEL'S CHOICE (DESIGN CHOICE, log 27):
what linking depends on is open in the spec; the model lets it depend on these arguments and on nothing else. The
R16 target of a linked 0b0011 partner, which PSTATE.EL, ctx and HaveVHE select, reaches it inside
`BreakpointView.compares`. -/
opaque linkCond : Fin 16 → Option (Fin 16) → Vector BreakpointView 16 → Situation → Bool

/-- FREE VALUE: whether the instruction runs in an "AArch32 stage 1 translation regime" (R35), which no state of
the spec tells (91 N10, log 26); applied to the count of draws. -/
opaque aarch32Stage1 : Nat → Bool

/-- FREE VALUE: the inputs that arrive after a reset of the machine, in batches: before the first instruction,
after it, and so on (20_memory.md R52, log 15). -/
opaque resetInputs : List (List Input)

/-- UNINTERPRETED: the field ContextID of a DBGBVR<n> (R40). -/
opaque contextIdOf : Nat → Nat

/-- UNINTERPRETED: the field VMID of a DBGBXVR<n> (R40). -/
opaque vmidOf : Nat → Nat

/-- UNINTERPRETED: the field ContextID2 of a DBGBXVR<n> (R40). -/
opaque contextId2Of : Nat → Nat

end Config

end Sys2Proof
end

