-- ==== Sys2Proof/WellFormed.lean ====
section
/-! DEFINITION. The forms the spec admits: t in 0 to 14 (30_encoding.md R60) and no condition but always
(R61). -/

namespace Sys2Proof

/-- R60: the register operand is R0 to R14. -/
def rtOk (t : Fin 16) : Bool := decide (t.val < 15)

/-- R61: only the unconditional form. -/
def condOk (cond : BitVec 4) : Bool := cond == condAlways

/-- The instruction is of a form the spec admits. -/
def WellFormed : Instr → Bool
  | .mrcA32 cond t _ => condOk cond && rtOk t
  | .mcrA32 cond t _ => condOk cond && rtOk t
  | .mrcT32 t _ => rtOk t
  | .mcrT32 t _ => rtOk t

end Sys2Proof
end

