-- ==== Sys2Proof/Decode.lean ====
section
/-! DEFINITION. From bytes to an instruction (30_encoding.md R56 to R59, R62), the encoder beside it, and the
reading of an assembler line (R54, R55). The bit layouts are the spec's own from general knowledge (93 G3). -/

namespace Sys2Proof

/-- Why bytes, or an assembler line, are no access to DBGBCR<n>. -/
inductive Reject where
  /-- The bytes end before the instruction does. -/
  | truncated
  /-- A T32 first halfword whose bits 15:11 are not 0b11101, so no 32-bit instruction of R59. -/
  | otherHalfword (first : BitVec 16)
  /-- A 32-bit word that is no MRC or MCR (R62: the model refuses it by name). -/
  | otherInstruction (word : Word)
  /-- An MRC or MCR whose coordinates name another System register, or none (R62). -/
  | otherRegister (coordinates : Coordinates)
  /-- An assembler line with the qualifier `.N`: no 16-bit form exists (R61 and the table after R55). -/
  | narrowQualifier
  /-- An assembler line for T32 with a condition suffix: it needs an IT block (R59, R61). -/
  | conditionInT32 (cond : BitVec 4)
  deriving DecidableEq, Repr

/-- The word of an MRC (`l` = 1) or MCR (`l` = 0), bit positions of R58:
`cond : 1110 : opc1 : L : CRn : Rt : coproc : opc2 : 1 : CRm`. -/
def moveWord (cond : BitVec 4) (l : BitVec 1) (c : Coordinates) (t : Fin 16) : Word :=
  cond ++ 0b1110#4 ++ c.opc1 ++ l ++ c.crn ++ (BitVec.ofFin t : BitVec 4) ++ c.coproc ++ c.opc2 ++ 1#1 ++ c.crm

/-- R58: the word is an MRC or MCR, of some coprocessor and register. For T32 the condition bits are the
fixed 0b1110 of the first halfword (R59). -/
def isMove (set : InstrSet) (w : Word) : Bool :=
  w.extractLsb' 24 4 == 0b1110#4 && w.extractLsb' 4 1 == 1#1 &&
    (set == .a32 || w.extractLsb' 28 4 == 0b1110#4)

/-- The coordinates an MRC or MCR word carries (R58, R59). -/
def coordinatesOf (w : Word) : Coordinates :=
  { coproc := w.extractLsb' 8 4, opc1 := w.extractLsb' 21 3, crn := w.extractLsb' 16 4,
    crm := w.extractLsb' 0 4, opc2 := w.extractLsb' 5 3 }

/-- The number of Rt, bits 15:12 (R58, R59). -/
def rtOf (w : Word) : Fin 16 := (w.extractLsb' 12 4).toFin

/-- R57: n = UInt(CRm). -/
def indexOf (w : Word) : Fin 16 := (w.extractLsb' 0 4).toFin

/-- The instruction of a set, a direction and the operands. -/
def makeInstr (set : InstrSet) (dir : Dir) (cond : BitVec 4) (t n : Fin 16) : Instr :=
  match set, dir with
  | .a32, .read => .mrcA32 cond t n
  | .a32, .write => .mcrA32 cond t n
  | .t32, .read => .mrcT32 t n
  | .t32, .write => .mcrT32 t n

/-- Bit 20, L: 1 is MRC, 0 is MCR (R58). -/
def dirOf (w : Word) : Dir := if w.extractLsb' 20 1 == 1#1 then .read else .write

/-- The instruction of a 32-bit word; a T32 word is written `first : second` (R59). The condition and Rt are
carried as they stand: a form R60 or R61 does not admit is an instruction that is not well-formed, as 95 W9
has it ("matches the A32 MRC row ... and is then refused"). -/
def decodeWord (set : InstrSet) (w : Word) : Except Reject Instr :=
  if isMove set w then
    if coordinatesOf w = dbgbcrAt (indexOf w) then
      .ok (makeInstr set (dirOf w) (w.extractLsb' 28 4) (rtOf w) (indexOf w))
    else .error (.otherRegister (coordinatesOf w))
  else .error (.otherInstruction w)

/-- Decoding, total on any bytes; it answers the instruction with the bytes after it. The first byte is the one
at the lowest address; words and halfwords are little-endian (PRESUMED, unsafe, log 2). -/
def decode (set : InstrSet) (bytes : List Byte) : Except Reject (Instr × List Byte) :=
  match set, bytes with
  | .a32, b0 :: b1 :: b2 :: b3 :: rest =>
    (decodeWord .a32 (b3 ++ b2 ++ b1 ++ b0)).map fun i => (i, rest)
  | .a32, _ => .error .truncated
  | .t32, b0 :: b1 :: tail =>
    if (b1 ++ b0).extractLsb' 11 5 = 0b11101#5 then
      match tail with
      | b2 :: b3 :: rest => (decodeWord .t32 (b1 ++ b0 ++ b3 ++ b2)).map fun i => (i, rest)
      | _ => .error .truncated
    else .error (.otherHalfword (b1 ++ b0))
  | .t32, _ => .error .truncated

/-- The word of an instruction (R56, R58, R59). -/
def encodeWord : Instr → Word
  | .mrcA32 cond t n => moveWord cond 1#1 (dbgbcrAt n) t
  | .mcrA32 cond t n => moveWord cond 0#1 (dbgbcrAt n) t
  | .mrcT32 t n => moveWord 0b1110#4 1#1 (dbgbcrAt n) t
  | .mcrT32 t n => moveWord 0b1110#4 0#1 (dbgbcrAt n) t

/-- A word as it lies in the program text, lowest address first: an A32 word is one little-endian word, a T32
word two little-endian halfwords, the first at the lower address (R59; log 2). -/
def layoutBytes (set : InstrSet) (w : Word) : List Byte :=
  match set with
  | .a32 => [w.extractLsb' 0 8, w.extractLsb' 8 8, w.extractLsb' 16 8, w.extractLsb' 24 8]
  | .t32 => [w.extractLsb' 16 8, w.extractLsb' 24 8, w.extractLsb' 0 8, w.extractLsb' 8 8]

/-- The bytes of an instruction. -/
def encode (i : Instr) : List Byte := layoutBytes i.set (encodeWord i)

/-- The assembler line of R54 and R55 read into an instruction. An omitted opc2 is 0, an omitted condition is
"always" (the table after R55, PRESUMED there, log 22). -/
def assemble (set : InstrSet) (line : AsmLine) : Except Reject Instr :=
  let c : Coordinates :=
    { coproc := line.coproc, opc1 := line.opc1, crn := line.crn, crm := line.crm, opc2 := line.opc2.getD 0 }
  let cond := line.cond.getD condAlways
  if line.qualifier = some .narrow then .error .narrowQualifier
  else if c ≠ dbgbcrAt line.crm.toFin then .error (.otherRegister c)
  else if set = .t32 ∧ cond ≠ condAlways then .error (.conditionInT32 cond)
  else .ok (makeInstr set line.dir cond line.rt line.crm.toFin)

/-- Which layout a number of the opcode table is read in (log 4, DESIGN CHOICE): the T32 rows and the A32 rows
with the condition "always" have the same number, so a number whose first halfword marks a 32-bit T32
instruction (R59: bits 15:11 = 0b11101) is taken as T32, any other as A32. -/
def tableSet (w : Word) : InstrSet := if w.extractLsb' 27 5 = 0b11101#5 then .t32 else .a32

/-- The number of an opcode-table row as a word: the bits above `nbits` are 0. -/
def tableWord (nbits w : Nat) : Word := BitVec.ofNat 32 (w % 2 ^ nbits)

/-- What the decoder reads from the instruction whose bits, numbered as the opcode table numbers them, are
`w`. -/
def decodeTableWord (nbits w : Nat) : Option Instr :=
  let v := tableWord nbits w
  match decode (tableSet v) (layoutBytes (tableSet v) v) with
  | .ok (i, _) => some i
  | .error _ => none

end Sys2Proof
end

