-- ==== Sys2Proof/Machine/State.lean ====
section
/-! DEFINITION. The state of the machine, all of it plain data (INVENTORY.md, State), the reasons a step can
stop, and the state after reset. -/

namespace Sys2Proof.Machine

/-- The reasons the source gives for a halt (60_exceptions.md R78). -/
inductive HaltReason where
  /-- `DebugHalt_SoftwareAccess`. -/
  | softwareAccess
  deriving DecidableEq, Repr

/-- The faults a step can stop with. -/
inductive Fault where
  /-- R74. Raised by the access check at EL0, and at EL1 or EL2 for a halted PE with EDSCR.SDD = 1 and the EL3
  trap armed; where AArch32 is supported nowhere; for a breakpoint that is not implemented. Safe (log 14). -/
  | undefined
  /-- R75, R77: `AArch64.AArch32SystemAccessTrap(target, code)`. Raised by the access check. Safe (log 14). -/
  | sysAccessTrap (target : EL) (code : Nat)
  /-- R76: `AArch32.TakeHypTrapException(code)`. Raised by the access check at EL1. Safe (log 14). -/
  | hypTrap (code : Nat)
  /-- R78: `Halt(reason)`. Raised by the access check. Safe (log 14). -/
  | halt (reason : HaltReason)
  /-- R80: breakpoint n generates a Breakpoint debug event in place of the step. Raised by `step`. Safe: more
  faults than the chip has (log 10). -/
  | breakpointDebugEvent (n : Fin 16)
  /-- No byte of program text is listed at this address. Raised by the fetch. Safe (log 1). -/
  | noProgramText (address : Nat)
  deriving DecidableEq, Repr

/-- The refusals: what has no meaning in the spec. -/
inductive Refusal where
  /-- An arm of `exec` that has no meaning yet. Raised by none: every constructor has its meaning. Safe. -/
  | notModelled (mnemonic : String)
  /-- R60: Rt is R15. Raised by the meanings. Safe (log 13). -/
  | programCounterOperand
  /-- R61: a condition other than always. Raised by the meanings of the A32 forms. Safe (log 13). -/
  | conditionalForm (cond : BitVec 4)
  /-- R62: the fetched bytes are no access to DBGBCR<n>. Raised by the fetch. Safe (log 13). -/
  | otherEncoding (why : Reject)
  deriving DecidableEq, Repr

/-- The state of the machine. The first group is the spec's (10_state.md), the second the model's own. -/
structure State where
  /-- The implementation parameters (00_scope.md R4). No step changes them. -/
  impl : Implementation
  /-- DBGBCR<n> (R7). For an n that is not implemented the entry is no register and nothing reaches it. -/
  dbgbcr : Vector Word 16
  /-- DBGBCR<n> has not been written since a Cold reset and holds no known value (R87). -/
  unknown : Vector Bool 16
  /-- DBGBCR<n>.E may have been 1 at some time in the run (92 D18, choice (c)). -/
  everEnabled : Vector Bool 16
  /-- The companion registers (R40). -/
  companion : Companion
  /-- The context record (R41). -/
  ctx : Context
  /-- The general registers x[0] to x[14] (R42). -/
  x : Vector Word 15
  /-- `PSTATE.EL` (R43). -/
  el : EL
  /-- The address of the current instruction, without a width (R44, log 5). -/
  pc : Nat
  /-- The program text (20_memory.md R53) as bytes by address, in canonical form (log 1). -/
  mem : List Host.Cell
  /-- MODEL'S OWN: the instruction set the fetch reads (log 3). -/
  iset : InstrSet
  /-- MODEL'S OWN: what the outside does before the next instruction, first to come first (log 15). -/
  inputs : List Input
  /-- MODEL'S OWN: what the outside does after each of the instructions to come, a batch for each (log 15). -/
  laterInputs : List (List Input)
  /-- MODEL'S OWN: how many free values were drawn (log 9). -/
  draws : Nat
  /-- MODEL'S OWN: the free choice of a Breakpoint debug event at the next instruction (log 10). -/
  eventRequest : Option (Fin 16)
  deriving DecidableEq, Repr

/-- The context record at reset: the base context B of 95_test_vectors.md section 2.3 (log 6, unsafe). -/
def resetContext : Context :=
  { halted := false, haveEL3 := false, edscrSdd := false, edscrTda := false, el3UsingAArch32 := false,
    el2UsingAArch32 := false, mdcrEl3Tda := false, el2Enabled := false, mdcrEl2Tde := false,
    mdcrEl2Tda := false, hdcrTde := false, hdcrTda := false, oslk := true, haltingAllowed := false }

/-- The companion registers at reset: DESIGN CHOICE zero (log 6, unsafe). -/
def resetCompanion : Companion :=
  { bvr := Vector.replicate 16 0, bxvr := Vector.replicate 16 0, contextidr := 0, contextidrEl2 := 0,
    vttbrVmid := 0, effectiveE2H := false, hcrTge := false }

/-- The configuration of the machine after reset: DESIGN CHOICE (log 7, unsafe). Where R4 allows a free choice
it is left free, and no reserved-value set is narrowed. -/
def resetImplementation : Implementation :=
  { haveAnyAArch32 := true, implemented := Vector.replicate 16 true, ctxCapable := Vector.replicate 16 false,
    haveEL2 := false, haveVHE := false, el3TrapPriorityWhenSdd := false, unimplCheckFirst := none,
    res0Stores := none, permittedBT := Vector.replicate 16 [], permittedExec := [],
    writeEffect := .wholeRun }

/-- What the reset leaves where the spec gives no value: DESIGN CHOICE, PRESUMED for `el` (log 6, unsafe). -/
def resetLaunch : Launch :=
  { x := Vector.replicate 15 0#32, el := .el1, pc := 0, iset := .a32, ctx := resetContext,
    companion := resetCompanion }

/-- The machine right after a Cold reset: every DBGBCR<n> holds a draw and no known value (R87, R89); the rest
is not in the source (R90) and named in log 6 and log 7. Whether an event takes the place of the first step (R80)
and what arrives from outside (R52) are free (log 10, log 15). -/
def State.reset : State :=
  { impl := resetImplementation
    dbgbcr := Vector.ofFn fun n => Config.freeWord n.val
    unknown := Vector.replicate 16 true
    everEnabled := Vector.replicate 16 true
    companion := resetLaunch.companion
    ctx := resetLaunch.ctx
    x := resetLaunch.x
    el := resetLaunch.el
    pc := resetLaunch.pc
    mem := []
    iset := resetLaunch.iset
    inputs := Config.resetInputs.headD []
    laterInputs := Config.resetInputs.tail
    draws := 17
    eventRequest := Config.freeEvent 16 }

end Sys2Proof.Machine
end

