-- ==== Sys2Proof/Machine/Fields.lean ====
section
/-! DEFINITION. The fields of DBGBCR<n> and what each value of them stands for (10_state.md R8 to R37). -/

namespace Sys2Proof.Machine

/-- The ten ranges of R8, from bit 31 down. -/
structure Fields where
  /-- [31:24], RES0 (R10). -/
  res31 : BitVec 8
  /-- BT [23:20], Breakpoint Type (R13). -/
  bt : BitVec 4
  /-- LBN [19:16], Linked breakpoint number (R30). -/
  lbn : BitVec 4
  /-- SSC [15:14], Security state control (R31). -/
  ssc : BitVec 2
  /-- HMC [13], Higher mode control (R32). -/
  hmc : BitVec 1
  /-- [12:9], RES0 (R11). -/
  res12 : BitVec 4
  /-- BAS [8:5], Byte address select (R34 to R36). -/
  bas : BitVec 4
  /-- [4:3], RES0 (R12). -/
  res4 : BitVec 2
  /-- PMC [2:1], Privilege mode control (R33). -/
  pmc : BitVec 2
  /-- E [0], Enable (R37). -/
  e : BitVec 1
  deriving DecidableEq, Repr

/-- The fields of a register value (R8). -/
def unpack (v : Word) : Fields :=
  { res31 := v.extractLsb' 24 8, bt := v.extractLsb' 20 4, lbn := v.extractLsb' 16 4,
    ssc := v.extractLsb' 14 2, hmc := v.extractLsb' 13 1, res12 := v.extractLsb' 9 4,
    bas := v.extractLsb' 5 4, res4 := v.extractLsb' 3 2, pmc := v.extractLsb' 1 2,
    e := v.extractLsb' 0 1 }

/-- The register value of ten fields (R8). -/
def pack (f : Fields) : Word :=
  f.res31 ++ f.bt ++ f.lbn ++ f.ssc ++ f.hmc ++ f.res12 ++ f.bas ++ f.res4 ++ f.pmc ++ f.e

/-- The seven named fields as a mask (R88). -/
def namedMask : Word := 0x00FFE1E7#32

/-- The three RES0 ranges as a mask (R8, R89). -/
def res0Mask : Word := 0xFF001E18#32

/-- E is 1: the breakpoint is enabled (R37). -/
def enabled (v : Word) : Bool := (unpack v).e == 1#1

/-- The eight base types that BT[3:1] selects (R13, R14 to R29). -/
inductive BaseType where
  /-- BT = 0b000x (R14, R15). -/
  | addressMatch
  /-- BT = 0b001x (R16, R17). -/
  | contextIdMatch
  /-- BT = 0b010x (R18, R19). -/
  | addressMismatch
  /-- BT = 0b011x (R20, R21). -/
  | contextidrEl1Match
  /-- BT = 0b100x (R22, R23). -/
  | vmidMatch
  /-- BT = 0b101x (R24, R25). -/
  | vmidContextIdMatch
  /-- BT = 0b110x (R26, R27). -/
  | contextidrEl2Match
  /-- BT = 0b111x (R28, R29). -/
  | fullContextIdMatch
  deriving DecidableEq, Repr

/-- BT[3:1] (R13). -/
def baseType (bt : BitVec 4) : BaseType :=
  match (bt.extractLsb' 1 3).toNat with
  | 0 => .addressMatch
  | 1 => .contextIdMatch
  | 2 => .addressMismatch
  | 3 => .contextidrEl1Match
  | 4 => .vmidMatch
  | 5 => .vmidContextIdMatch
  | 6 => .contextidrEl2Match
  | _ => .fullContextIdMatch

/-- BT[0]: linking enabled (R13). -/
def linked (bt : BitVec 4) : Bool := bt.extractLsb' 0 1 == 1#1

/-- The three classes of R13. -/
inductive BtClass where
  | addressMatch | addressMismatch | contextMatching
  deriving DecidableEq, Repr

/-- The class of a BT value (R13). -/
def btClass (bt : BitVec 4) : BtClass :=
  match baseType bt with
  | .addressMatch => .addressMatch
  | .addressMismatch => .addressMismatch
  | .contextIdMatch => .contextMatching
  | .contextidrEl1Match => .contextMatching
  | .vmidMatch => .contextMatching
  | .vmidContextIdMatch => .contextMatching
  | .contextidrEl2Match => .contextMatching
  | .fullContextIdMatch => .contextMatching

/-- The BT values whose rows read DBGBXVR<n>: 0b1000 to 0b1111 (R6, R22 to R29). -/
def readsBxvr (bt : BitVec 4) : Bool := bt.extractLsb' 3 1 == 1#1

/-- What a permitted BAS value selects (R34, R35). -/
inductive BasTarget where
  /-- The instruction at DBGBVR<n> plus this offset; BAS selects the halfwords at DBGBVR<n> plus these. -/
  | instruction (offset : Nat) (halfwords : List Nat)
  /-- "match anywhere" (R35). -/
  | anywhere
  deriving DecidableEq, Repr

/-- The halfwords BAS selects: BAS[1:0] = 0b11 the one at DBGBVR<n>, BAS[3:2] = 0b11 the one at DBGBVR<n>+2
(R34). -/
def basHalfwords (bas : BitVec 4) : List Nat :=
  (if bas.extractLsb' 0 2 = 0b11#2 then [0] else []) ++ (if bas.extractLsb' 2 2 = 0b11#2 then [2] else [])

/-- The BAS tables of R34 (Address match) and R35 (Address mismatch); `none`: a reserved value, or a Context
matching breakpoint, for which BAS is ignored (R36). MODEL'S CHOICE (log 26): the spec gives the R35 table for an
AArch32 stage 1 translation regime only (91 N10), and no state tells the regime; the model reads BAS back by the
table in every regime (R38), while the event of a mismatch breakpoint is held to it only where
`Config.aarch32Stage1` says so (`openValueHeld`). -/
def basTarget (cls : BtClass) (bas : BitVec 4) : Option BasTarget :=
  if cls = .contextMatching then none
  else if bas = 0b0011#4 then some (.instruction 0 (basHalfwords bas))
  else if bas = 0b1100#4 then some (.instruction 2 (basHalfwords bas))
  else if bas = 0b1111#4 then some (.instruction 0 (basHalfwords bas))
  else if cls = .addressMismatch ∧ bas = 0b0000#4 then some .anywhere
  else none

/-- The stored BAS value is not reserved for the class (R34 to R36). -/
def basPermitted (cls : BtClass) (bas : BitVec 4) : Bool :=
  cls == .contextMatching || (basTarget cls bas).isSome

/-- `permitted_BT(n, bt)` (R13, 92 D20). -/
def btPermitted (p : Implementation) (n : Fin 16) (bt : BitVec 4) : Bool := p.permittedBT[n].contains bt

/-- `permitted_exec(HMC, SSC, PMC)` (R31 to R33, 92 D20). -/
def execPermitted (p : Implementation) (f : Fields) : Bool := p.permittedExec.contains (f.hmc, f.ssc, f.pmc)

/-- The breakpoint LBN names: only for the linked address types 0b0001 and 0b0101 (R30, 92 D12). -/
def linkedTo (f : Fields) : Option (Fin 16) :=
  if btClass f.bt ≠ .contextMatching ∧ linked f.bt then some f.lbn.toFin else none

/-- What of a register value the breakpoint acts on: every RES0 bit is 0 (R10 to R12: no other effect), LBN is 0
for every type but the linked address types (R30), BAS is 0b1111 for a Context matching breakpoint (R36), and with
E = 0 every other field is 0 (R9). -/
def effectiveFields (f : Fields) : Fields :=
  { res31 := 0
    bt := if f.e = 1#1 then f.bt else 0
    lbn := if f.e = 1#1 ∧ (linkedTo f).isSome then f.lbn else 0
    ssc := if f.e = 1#1 then f.ssc else 0
    hmc := if f.e = 1#1 then f.hmc else 0
    res12 := 0
    bas := if f.e = 1#1 then (if btClass f.bt = .contextMatching then 0b1111#4 else f.bas) else 0
    res4 := 0
    pmc := if f.e = 1#1 then f.pmc else 0
    e := f.e }

/-- DBGBXVR<n> exists (R6). -/
def bxvrExists (p : Implementation) (n : Fin 16) : Bool := p.haveEL2 && p.ctxCapable[n]

/-- `res0(b)` of R38: as stored, zero, or either, as `RES0_STORES` has it; `d` are the draw's bits. -/
def res0 {w : Nat} (stores : Option Bool) (b d : BitVec w) : BitVec w :=
  match stores with
  | some true => b
  | some false => 0
  | none => b &&& d

/-- `res1(b)` of R38: each bit either as stored or 1; `d` are the draw's bits. -/
def res1 {w : Nat} (b d : BitVec w) : BitVec w := b ||| d

/-- The fields a read returns of a register that holds the known value `f`, with the draw `d` (R38). -/
def readFields (p : Implementation) (n : Fin 16) (f d : Fields) : Fields :=
  let cls := btClass f.bt
  let execOk := execPermitted p f
  { res31 := res0 p.res0Stores f.res31 d.res31
    bt := if btPermitted p n f.bt then f.bt else d.bt
    lbn := if f.bt = 0b0001#4 then f.lbn else d.lbn
    ssc := if execOk then f.ssc else d.ssc
    hmc := if execOk then f.hmc else d.hmc
    res12 := res0 p.res0Stores f.res12 d.res12
    bas := if cls = .contextMatching then res1 f.bas d.bas
           else if basPermitted cls f.bas then f.bas else d.bas
    res4 := res0 p.res0Stores f.res4 d.res4
    pmc := if execOk then f.pmc else d.pmc
    e := f.e }

/-- The fields a read returns of a register not written since a Cold reset: a draw, its RES0 bits read through
`res0` (R87, R89, log 8). -/
def unknownFields (p : Implementation) (d : Fields) : Fields :=
  { d with
    res31 := res0 p.res0Stores d.res31 d.res31
    res12 := res0 p.res0Stores d.res12 d.res12
    res4 := res0 p.res0Stores d.res4 d.res4 }

/-- `ReadDBGBCR(n)` (R38) for the stored value `v` and the draw `d`. -/
def readValue (p : Implementation) (n : Fin 16) (unknown : Bool) (v d : Word) : Word :=
  pack (if unknown then unknownFields p (unpack d) else readFields p n (unpack v) (unpack d))

end Sys2Proof.Machine
end

