-- ==== Sys2Proof/Machine/Operands.lean ====
section
/-! DEFINITION. The one operand form of the table: the general register Rt (30_encoding.md R57, R60;
10_state.md R42). There is no immediate and no memory operand. -/

namespace Sys2Proof.Machine

/-- Runs `k` on the register number of Rt, 0 to 14; R15 is refused by name (R60). -/
def withRt (t : Fin 16) (k : Fin 15 → Host.Outcome State Fault Refusal) : Host.Outcome State Fault Refusal :=
  if h : t.val < 15 then k ⟨t.val, h⟩ else .refused .programCounterOperand

/-- Answers `r` for the condition "always"; any other is refused by name (R61). -/
def whenAlways (cond : BitVec 4) (r : Host.Outcome State Fault Refusal) : Host.Outcome State Fault Refusal :=
  if condOk cond then r else .refused (.conditionalForm cond)

/-- `x[t]` (R42). -/
def getX (t : Fin 15) (s : State) : Word := s.x[t]

/-- `x[t] <- v` (R42). -/
def setX (t : Fin 15) (v : Word) (s : State) : State := { s with x := s.x.set t v }

/-- `pc <- pc + 4` (R44). -/
def advancePc (s : State) : State := { s with pc := s.pc + 4 }

end Sys2Proof.Machine
end

