-- ==== Sys2Proof/Machine/Ops.lean ====
section
/-! DEFINITION. The shared operations: the program text, the access check and how its outcomes are raised, the
read and the write of DBGBCR<n>, the two resets and the other inputs. -/

namespace Sys2Proof.Machine

/-! ### The program text -/

/-- The byte at an address; an unlisted address holds none (log 1, safe). -/
def Memory.read : List Host.Cell → Nat → Option Byte
  | [], _ => none
  | (k, b) :: rest, a => if k = a then some b else Memory.read rest a

/-- Places a byte, keeping the addresses strictly rising. -/
def Memory.write : List Host.Cell → Nat → Byte → List Host.Cell
  | [], a, b => [(a, b)]
  | (k, c) :: rest, a, b =>
    if a < k then (a, b) :: (k, c) :: rest
    else if a = k then (a, b) :: rest
    else (k, c) :: Memory.write rest a b

/-- Places bytes at consecutive addresses, the first at `a`. -/
def Memory.writeBytes : List Host.Cell → Nat → List Byte → List Host.Cell
  | m, _, [] => m
  | m, a, b :: rest => Memory.writeBytes (Memory.write m a b) (a + 1) rest

/-- The bytes listed from an address on, at most `k`, up to the first unlisted address. -/
def Memory.readBytes (m : List Host.Cell) : Nat → Nat → List Byte
  | _, 0 => []
  | a, k + 1 =>
    match Memory.read m a with
    | none => []
    | some b => b :: Memory.readBytes m (a + 1) k

/-- Every listed address lies above `a`. -/
def Memory.above (a : Nat) (m : List Host.Cell) : Bool := m.all fun c => decide (a < c.1)

/-- The canonical form: addresses strictly rising. An unlisted address holds no byte, so no entry can equal
what it reads as. -/
def Memory.wf : List Host.Cell → Bool
  | [] => true
  | c :: rest => Memory.above c.1 rest && Memory.wf rest

/-! ### The access check and its outcomes -/

/-- The code every trap carries, 0x05 (60_exceptions.md R75 to R77). -/
def trapCode : Nat := 0x05

/-- The guard of the trap to EL3, tests 4 of R64 and 2 of R65. -/
def el3TrapArmed (c : Context) : Bool := c.haveEL3 && !c.el3UsingAArch32 && c.mdcrEl3Tda

/-- The PE is halted with EDSCR.SDD = 1 (R64, R65, R74). -/
def haltedSecureDisabled (c : Context) : Bool := c.halted && c.edscrSdd

/-- The halt test, last before success at EL1, EL2 and EL3 (R64 to R66, R78). -/
def haltCheck (c : Context) : Option Fault :=
  if !c.oslk && c.haltingAllowed && c.edscrTda then some (.halt .softwareAccess) else none

/-- Test 1 of R64 and R65; `priority` is `EL3_TRAP_PRIORITY_WHEN_SDD`. -/
def earlyUndefined (priority : Bool) (c : Context) : Bool :=
  c.halted && c.haveEL3 && c.edscrSdd && priority && !c.el3UsingAArch32 && c.mdcrEl3Tda

/-- The tail that EL1 and EL2 share: the trap to EL3, or Undefined in its place, then the halt (R64, R65). -/
def el3TrapCheck (c : Context) : Option Fault :=
  if el3TrapArmed c then
    if haltedSecureDisabled c then some .undefined else some (.sysAccessTrap .el3 trapCode)
  else haltCheck c

/-- `AccessCheck(ctx, el)` of R63 to R66; `none` is Proceed. -/
def accessCheck (priority : Bool) (c : Context) : EL → Option Fault
  | .el0 => some .undefined
  | .el1 =>
    if earlyUndefined priority c then some .undefined
    else if c.el2Enabled && !c.el2UsingAArch32 && (c.mdcrEl2Tde || c.mdcrEl2Tda) then
      some (.sysAccessTrap .el2 trapCode)
    else if c.el2Enabled && c.el2UsingAArch32 && (c.hdcrTde || c.hdcrTda) then some (.hypTrap trapCode)
    else el3TrapCheck c
  | .el2 => if earlyUndefined priority c then some .undefined else el3TrapCheck c
  | .el3 => haltCheck c

/-- `AccessCheck` of a state (R67: it reads `ctx` and `PSTATE.EL`, and the parameter). -/
def stateCheck (s : State) : Option Fault := accessCheck s.impl.el3TrapPriorityWhenSdd s.ctx s.el

/-- Whether the check for an unimplemented breakpoint comes first: `UNIMPL_CHECK_FIRST`, or the free choice
where it is not fixed (R68, log 12). -/
def unimplFirst (s : State) : Bool :=
  match s.impl.unimplCheckFirst with
  | some b => b
  | none => Config.freeChoice s.draws

/-- `Access(ctx, el, n)` of R68; `none` is Proceed. -/
def access (s : State) (n : Fin 16) : Option Fault :=
  if !s.impl.haveAnyAArch32 then some .undefined
  else if s.impl.implemented[n] then stateCheck s
  else if stateCheck s = none ∨ stateCheck s = some .undefined then some .undefined
  else if unimplFirst s then some .undefined
  else stateCheck s

/-- TAKING AN OUTCOME OTHER THAN SUCCESS: `raise o` writes no state of the spec and ends the instruction as the
fault `o` (R69, R71, R81; the entry is in no source: 91 N20, N21, log 14); with no outcome to raise, `k` is
done. -/
def checked (o : Option Fault) (k : State) : Host.Outcome State Fault Refusal :=
  match o with
  | some f => .fault f
  | none => .next k

/-! ### Reading and writing DBGBCR<n> -/

/-- `ReadDBGBCR(n)` (R38), with the state's next draw. -/
def readDbgbcr (n : Fin 16) (s : State) : Word :=
  readValue s.impl n s.unknown[n] s.dbgbcr[n] (Config.freeWord s.draws)

/-- A draw was used (log 9). -/
def useDraw (s : State) : State := { s with draws := s.draws + 1 }

/-- `DBGBCR[n] <- w`, all 32 bits (R39): the register now holds a known value, and if E is written as 1 the
breakpoint was enabled in this run. -/
def writeDbgbcr (n : Fin 16) (w : Word) (s : State) : State :=
  { s with
    dbgbcr := s.dbgbcr.set n w
    unknown := s.unknown.set n false
    everEnabled := s.everEnabled.set n (s.everEnabled[n] || enabled w) }

/-- The successful read of R69. -/
def readAccess (n : Fin 16) (t : Fin 15) (s : State) : Host.Outcome State Fault Refusal :=
  checked (access s n) (advancePc (useDraw (setX t (readDbgbcr n s) s)))

/-- The successful write of R70. -/
def writeAccess (n : Fin 16) (t : Fin 15) (s : State) : Host.Outcome State Fault Refusal :=
  checked (access s n) (advancePc (writeDbgbcr n (getX t s) s))

/-! ### Reset and the other inputs -/

/-- A context record with the configuration of the machine kept (R41: HaveEL3 is configuration, log 20). MODEL'S
CHOICE (DESIGN CHOICE, log 28): R41 leaves EL3UsingAArch32 "state or configuration"; it is state here, so a reset or
a change of the context may alter it. -/
def keepConfig (old new : Context) : Context := { new with haveEL3 := old.haveEL3 }

/-- What a reset leaves where the source says nothing: the launch data (R90, 92 D19). -/
def relaunch (l : Launch) (s : State) : State :=
  { s with x := l.x, el := l.el, pc := l.pc, iset := l.iset, ctx := keepConfig s.ctx l.ctx,
           companion := l.companion }

/-- A Cold reset of the bank: every field, and every RES0 bit, is a draw (R87, R89). -/
def coldReset (s : State) : State :=
  { s with
    dbgbcr := Vector.ofFn fun n => Config.freeWord (s.draws + n.val)
    unknown := Vector.replicate 16 true
    everEnabled := Vector.replicate 16 true
    draws := s.draws + 16 }

/-- A Warm reset of the bank: every named field is unchanged (R88), and so are the RES0 bits (R89, 92 D19). -/
def warmReset (s : State) : State := s

/-- A write through the AArch64 or the External view: the views share storage (20_memory.md R45, R52); there is
no register to change for an n that is not implemented (log 25). -/
def viewWrite (n : Fin 16) (w : Word) (s : State) : State :=
  if s.impl.implemented[n] then writeDbgbcr n w s else s

/-- What an input does. -/
def applyInput (i : Input) (s : State) : State :=
  match i with
  | .coldReset l => relaunch l (coldReset s)
  | .warmReset l => relaunch l (warmReset s)
  | .viewWrite _ n w => viewWrite n w s
  | .contextChange c => { s with ctx := keepConfig s.ctx c }
  | .companionChange c => { s with companion := c }

end Sys2Proof.Machine
end

