-- ==== Sys2Proof/Machine/Event.lean ====
section
/-! DEFINITION. The Breakpoint debug event (60_exceptions.md R80, 92 D16, D18): when it can take the place of a
step. The source gives necessary conditions only; what it does not give is uninterpreted (log 10). -/

namespace Sys2Proof.Machine

/-- The Context ID that BT = 0b001x is compared with (R16). -/
def contextTarget (s : State) : Nat :=
  if s.impl.haveVHE && !s.ctx.el2UsingAArch32 && s.companion.effectiveE2H
      && ((s.el == .el0 && s.companion.hcrTge) || s.el == .el2)
  then s.companion.contextidrEl2 else s.companion.contextidr

/-- The instruction an address breakpoint looks for: DBGBVR<n> and what BAS selects (R34, R35). -/
def addressComparison (cls : BtClass) (bas : BitVec 4) (bvr : Nat) : List Comparison :=
  match cls, basTarget cls bas with
  | .addressMatch, some (.instruction k hs) => [.instructionAt (bvr + k) (hs.map (bvr + ·))]
  | .addressMismatch, some (.instruction k hs) => [.instructionStepped (bvr + k) (hs.map (bvr + ·))]
  | .addressMismatch, some .anywhere => [.steppedAnywhere]
  | _, _ => []

/-- What breakpoint n compares: the rows R14 to R29. A linked value compares as its unlinked one. -/
def comparisons (s : State) (n : Fin 16) : List Comparison :=
  let f := unpack s.dbgbcr[n]
  let c := s.companion
  let byContextId (against : Nat) : Comparison := .contextId (Config.contextIdOf c.bvr[n]) against
  let byContextId2 : Comparison := .contextId (Config.contextId2Of c.bxvr[n]) c.contextidrEl2
  let byVmid : Comparison := .vmid (Config.vmidOf c.bxvr[n]) c.vttbrVmid
  match baseType f.bt with
  | .addressMatch => addressComparison .addressMatch f.bas c.bvr[n]
  | .contextIdMatch => [byContextId (contextTarget s)]
  | .addressMismatch => addressComparison .addressMismatch f.bas c.bvr[n]
  | .contextidrEl1Match => [byContextId c.contextidr]
  | .vmidMatch => [byVmid]
  | .vmidContextIdMatch => [byContextId c.contextidr, byVmid]
  | .contextidrEl2Match => [byContextId2]
  | .fullContextIdMatch => [byContextId c.contextidr, byContextId2]

/-- The situation of the instruction about to be executed. -/
def situation (s : State) : Situation := { pc := s.pc, iset := s.iset, el := s.el, ctx := s.ctx }

/-- Whether a comparison holds: "match anywhere" exempts no instruction address (R35); the others are
uninterpreted (91 N8). -/
def comparisonHolds (at_ : Situation) : Comparison → Bool
  | .instructionAt a hs => Config.instructionMatches a hs at_
  | .instructionStepped a hs => Config.instructionStepped a hs at_
  | .steppedAnywhere => true
  | .contextId value against => Config.contextIdMatches value against
  | .vmid value against => Config.vmidMatches value against

/-- What linking may see of breakpoint n (log 27). -/
def breakpointView (s : State) (n : Fin 16) : BreakpointView :=
  { implemented := s.impl.implemented[n]
    unknown := s.unknown[n]
    control := pack (effectiveFields (unpack s.dbgbcr[n]))
    compares := if enabled s.dbgbcr[n] then comparisons s n else [] }

/-- What linking does to the event of breakpoint n: nothing for a type without linking (R13), and what is in no
source for the others (91 N9). -/
def linkAllows (s : State) (n : Fin 16) : Bool :=
  let f := unpack s.dbgbcr[n]
  !linked f.bt || Config.linkCond n (linkedTo f) (Vector.ofFn (breakpointView s)) (situation s)

/-- `TypeCond` of R80: every comparison of the row holds, and linking, whose effect is in no source, allows
it. -/
def typeCond (s : State) (n : Fin 16) : Bool :=
  (comparisons s n).all (comparisonHolds (situation s)) && linkAllows s n

/-- `ExecCond` of R80. -/
def execCond (s : State) (n : Fin 16) : Bool :=
  let f := unpack s.dbgbcr[n]
  Config.execCond f.hmc f.ssc f.pmc s.ctx s.el

/-- The breakpoint LBN names, where the type uses LBN, holds no known value (R87). -/
def partnerUnknown (s : State) (n : Fin 16) : Bool :=
  match linkedTo (unpack s.dbgbcr[n]) with
  | some m => s.unknown[m]
  | none => false

/-- The behaviour of breakpoint n with its present fields is in no source: a reserved BT, BAS or {HMC, SSC, PMC}
(92 D20), a BT that reads a DBGBXVR<n> that does not exist (93 U11), an Address mismatch type outside an AArch32
stage 1 translation regime (91 N10, log 26), or a partner without a known value. -/
def openValueHeld (s : State) (n : Fin 16) : Bool :=
  let f := unpack s.dbgbcr[n]
  !btPermitted s.impl n f.bt || !execPermitted s.impl f || !basPermitted (btClass f.bt) f.bas
    || (readsBxvr f.bt && !bxvrExists s.impl n)
    || (btClass f.bt == .addressMismatch && !Config.aarch32Stage1 s.draws)
    || partnerUnknown s n

/-- Breakpoint n may act on an earlier value of its register: `WRITE_EFFECT` is not choice (b), and n was
enabled at some time in the run (R51, 92 D18, log 11). -/
def earlierValueMayAct (s : State) (n : Fin 16) : Bool :=
  s.impl.writeEffect != .nextInstruction && s.everEnabled[n]

/-- Breakpoint n may generate its event at the next instruction: it is implemented, and its value is not known
(R87), or E is 1 (R37) and the conditions of R80 hold or are in no source, or an earlier value may act. -/
def mayFire (s : State) (n : Fin 16) : Bool :=
  s.impl.haveAnyAArch32 && s.impl.implemented[n]
    && (s.unknown[n]
        || (enabled s.dbgbcr[n] && (openValueHeld s n || (execCond s n && typeCond s n)))
        || earlierValueMayAct s n)

/-- Some breakpoint may be enabled. -/
def someArmed (s : State) : Bool :=
  (List.finRange 16).any fun n =>
    s.impl.haveAnyAArch32 && s.impl.implemented[n]
      && (s.unknown[n] || enabled s.dbgbcr[n] || earlierValueMayAct s n)

/-- The Breakpoint debug event that takes the place of the next step: the free choice `eventRequest`, where the
breakpoint it names may fire (R80, 92 D16). -/
def pendingEvent (s : State) : Option (Fin 16) :=
  if someArmed s then
    match s.eventRequest with
    | none => none
    | some n => if mayFire s n then some n else none
  else none

/-- After an instruction: the choice of an event at the next one is free (log 10). -/
def chooseEvent (s : State) : State :=
  { s with eventRequest := Config.freeEvent s.draws, draws := s.draws + 1 }

/-- After an instruction: the next batch of inputs arrives (20_memory.md R52, 60_exceptions.md R85, log 15). -/
def arrive (s : State) : State :=
  { s with inputs := s.laterInputs.headD [], laterInputs := s.laterInputs.tail }

/-- What a completed instruction is followed by, before the next. -/
def afterInstruction (s : State) : State := arrive (chooseEvent s)

end Sys2Proof.Machine
end

