-- ==== Sys2Proof/Machine/SysReg.lean ====
section
/-! DEFINITION. The meanings of the four rows: the read and the write of DBGBCR<n> (40_sysreg_access.md R69 to
R71), in A32 and in T32 (92 D21: the same meaning). -/

namespace Sys2Proof.Machine

/-- MRC, A32 (R69): the access check of R68, then `x[t] <- ReadDBGBCR(n)` and `pc <- pc + 4`. A condition other
than always (R61) and Rt = R15 (R60) are refused by name. -/
def execMrcA32 (cond : BitVec 4) (t n : Fin 16) (s : State) : Host.Outcome State Fault Refusal :=
  whenAlways cond (withRt t fun r => readAccess n r s)

/-- MCR, A32 (R70): the access check of R68, then `DBGBCR[n] <- x[t]` and `pc <- pc + 4`. A condition other than
always (R61) and Rt = R15 (R60) are refused by name. -/
def execMcrA32 (cond : BitVec 4) (t n : Fin 16) (s : State) : Host.Outcome State Fault Refusal :=
  whenAlways cond (withRt t fun r => writeAccess n r s)

/-- MRC, T32, outside any IT block (R59, R61, R69). -/
def execMrcT32 (t n : Fin 16) (s : State) : Host.Outcome State Fault Refusal :=
  withRt t fun r => readAccess n r s

/-- MCR, T32, outside any IT block (R59, R61, R70). -/
def execMcrT32 (t n : Fin 16) (s : State) : Host.Outcome State Fault Refusal :=
  withRt t fun r => writeAccess n r s

end Sys2Proof.Machine
end

