-- ==== Sys2Proof/Machine/Dispatch.lean ====
section
/-! DEFINITION. One arm per constructor of Instr. -/

namespace Sys2Proof.Machine

/-- The meaning of an instruction. -/
def exec (i : Instr) (s : State) : Host.Outcome State Fault Refusal :=
  match i with
  | .mrcA32 cond t n => Sys2Proof.Machine.execMrcA32 cond t n s
  | .mcrA32 cond t n => Sys2Proof.Machine.execMcrA32 cond t n s
  | .mrcT32 t n => Sys2Proof.Machine.execMrcT32 t n s
  | .mcrT32 t n => Sys2Proof.Machine.execMcrT32 t n s

end Sys2Proof.Machine
end

