-- ==== Sys2Proof/Machine/Fetch.lean ====
section
/-! DEFINITION. Fetching the instruction at the pc, and placing one there from outside (log 1, log 2, log 4). -/

namespace Sys2Proof.Machine

/-- The length of an MRC or MCR in bytes, A32 and T32 (10_state.md R44, 30_encoding.md R58, R59). -/
def instrLength : Nat := 4

/-- The program text at the pc: the listed bytes, at most one instruction's. -/
def fetchBytes (s : State) : List Byte := Memory.readBytes s.mem s.pc instrLength

/-- Decodes the instruction at the pc in the current instruction set. -/
def fetch (s : State) : Except Reject Instr := (decode s.iset (fetchBytes s)).map fun r => r.1

/-- What a step answers where the fetch gives no instruction: no text listed there is a fault, other text is
refused by name (R62). -/
def fetchFailed (s : State) (why : Reject) : Host.Outcome State Fault Refusal :=
  match why with
  | .truncated => .fault (.noProgramText (s.pc + (fetchBytes s).length))
  | other => .refused (.otherEncoding other)

/-- Does `f` to a next state. -/
def onNext (f : State → State) (o : Host.Outcome State Fault Refusal) : Host.Outcome State Fault Refusal :=
  match o with
  | .next s => .next (f s)
  | .fault r => .fault r
  | .refused r => .refused r

/-- The state with the instruction whose table number is `w` placed at the pc, in the instruction set its layout
belongs to, and with nothing of the outside (an input, an event asked for) coming before it. -/
def placeWord (s : State) (nbits w : Nat) : State :=
  let v := tableWord nbits w
  { s with
    mem := Memory.writeBytes s.mem s.pc (layoutBytes (tableSet v) v)
    iset := tableSet v
    inputs := []
    eventRequest := none }

end Sys2Proof.Machine
end

