-- ==== Sys2Proof/Machine/Step.lean ====
section
/-! DEFINITION. One step of the machine. -/

namespace Sys2Proof.Machine

/-- One step: an input from outside if one is pending; else a Breakpoint debug event if one takes the step's
place (R80); else the instruction at the pc. -/
def step (s : State) : Host.Outcome State Fault Refusal :=
  match s.inputs with
  | i :: rest => .next (applyInput i { s with inputs := rest })
  | [] =>
    match pendingEvent s with
    | some n => .fault (.breakpointDebugEvent n)
    | none =>
      match fetch s with
      | .error why => fetchFailed s why
      | .ok i => onNext afterInstruction (exec i s)

/-- The state with the instruction of an opcode-table number placed where `step` fetches next. -/
def State.withFetchWord (s : State) (nbits w : Nat) : State := placeWord s nbits w

end Sys2Proof.Machine
end

