-- ==== Sys2Proof/Safety.lean ====
section
/-! DEFINITION. The named premises and the invariant that claims are stated with. -/

namespace Sys2Proof.Machine

/-- The tests of R64 to R66 that stand between an access and success, as conditions on the context (the
`earlyUndefined` test needs no clause of its own: it implies the EL3 clause). -/
abbrev LevelAllows (c : Context) (el : EL) : Prop :=
  el ≠ .el0
    ∧ (el = .el1 →
        ¬ (c.el2Enabled = true ∧ c.el2UsingAArch32 = false ∧ (c.mdcrEl2Tde = true ∨ c.mdcrEl2Tda = true))
        ∧ ¬ (c.el2Enabled = true ∧ c.el2UsingAArch32 = true ∧ (c.hdcrTde = true ∨ c.hdcrTda = true)))
    ∧ (el = .el1 ∨ el = .el2 → ¬ (c.haveEL3 = true ∧ c.el3UsingAArch32 = false ∧ c.mdcrEl3Tda = true))
    ∧ ¬ (c.oslk = false ∧ c.haltingAllowed = true ∧ c.edscrTda = true)

/-- The conditions under which an access to DBGBCR<n> succeeds: AArch32 is supported (R2), breakpoint n is
implemented (R3), and no test of the current level fires (R63 to R66). -/
abbrev AccessAllowed (s : State) (n : Fin 16) : Prop :=
  s.impl.haveAnyAArch32 = true ∧ s.impl.implemented[n] = true ∧ LevelAllows s.ctx s.el

/-- Every field of a stored value holds a permitted value (R38): BT, {HMC, SSC, PMC}, and BAS for an address
type. -/
abbrev AllPermitted (p : Implementation) (n : Fin 16) (v : Word) : Prop :=
  btPermitted p n (unpack v).bt = true ∧ execPermitted p (unpack v) = true
    ∧ basPermitted (btClass (unpack v).bt) (unpack v).bas = true

/-- The input does not write the bank through another view. -/
def noViewWrite : Input → Bool
  | .viewWrite _ _ _ => false
  | .coldReset _ => true
  | .warmReset _ => true
  | .contextChange _ => true
  | .companionChange _ => true

/-- The launch premise `NoOtherWriter` (20_memory.md R52, 92 D17): no input of the run, pending or to come after a
later instruction, writes the bank through another view. -/
def NoOtherWriter (s : State) : Bool :=
  s.inputs.all noViewWrite && s.laterInputs.all fun batch => batch.all noViewWrite

/-- Every implemented breakpoint holds a known value with E = 0 (60_exceptions.md R80, 70_reset_and_hazards.md
R91). -/
abbrev AllDisabled (s : State) : Prop :=
  ∀ n : Fin 16, s.impl.implemented[n] = true → s.unknown[n] = false ∧ enabled s.dbgbcr[n] = false

/-- The consistency facts of a real PE that R41 lets a claim add as premises (93 G14): they are no part of the
machine. -/
abbrev ArmConsistent (s : State) : Prop :=
  (s.el = .el3 → s.ctx.haveEL3 = true ∧ s.ctx.el3UsingAArch32 = true)
    ∧ (s.el = .el2 → s.ctx.el2UsingAArch32 = true)

/-- No breakpoint is forgotten: one whose register may hold E = 1 is recorded as enabled in this run (92 D18,
choice (c)). -/
abbrev EnablesRecorded (s : State) : Prop :=
  ∀ n : Fin 16, (s.unknown[n] = true ∨ enabled s.dbgbcr[n] = true) → s.everEnabled[n] = true

/-- The invariant of the machine: the program text is in canonical form and no enabled breakpoint is
forgotten. -/
abbrev Inv (s : State) : Prop := Memory.wf s.mem = true ∧ EnablesRecorded s

end Sys2Proof.Machine
end

