-- ==== Sys2Proof/Certificates/Slice0/Obligations.lean ====
section
/-! DEFINITION. The statements for the provers, from the numbered rules of spec/. -/

open Sys2Proof Sys2Proof.Machine

/-! ### Encoding -/

/-- 30_encoding.md R56 to R59: every instruction's bytes decode to it, with every operand at every value its
field admits, and the bytes after it are left. -/
def Obligations.DecodeOfEncodeIsTheInstruction : Prop :=
  ∀ (i : Instr) (rest : List Byte), decode i.set (encode i ++ rest) = .ok (i, rest)

/-- 30_encoding.md R56 to R59: bytes that decode to an instruction are its encoding, so no two instructions
share bytes and no bit of a decoded word is dropped. -/
def Obligations.EncodeOfDecodeIsTheBytes : Prop :=
  ∀ (set : InstrSet) (bytes rest : List Byte) (i : Instr),
    decode set bytes = .ok (i, rest) → i.set = set ∧ encode i ++ rest = bytes

/-- 30_encoding.md R58, R59 and spec/opcode_table.json: a word is read as a row's instruction exactly when it
agrees with the row's match under the row's mask, and Rt, n and the condition are the bits the layout names. -/
def Obligations.DecodeAcceptsExactlyTheRows : Prop :=
  ∀ w : Word,
    (w &&& 0x0FFF0FF0#32 = 0x0E100EB0#32 →
      decodeWord .a32 w = .ok (.mrcA32 (w.extractLsb' 28 4) (w.extractLsb' 12 4).toFin (w.extractLsb' 0 4).toFin))
    ∧ (w &&& 0x0FFF0FF0#32 = 0x0E000EB0#32 →
      decodeWord .a32 w = .ok (.mcrA32 (w.extractLsb' 28 4) (w.extractLsb' 12 4).toFin (w.extractLsb' 0 4).toFin))
    ∧ (w &&& 0x0FFF0FF0#32 ≠ 0x0E100EB0#32 → w &&& 0x0FFF0FF0#32 ≠ 0x0E000EB0#32 →
      ∀ i, decodeWord .a32 w ≠ .ok i)
    ∧ (w &&& 0xFFFF0FF0#32 = 0xEE100EB0#32 →
      decodeWord .t32 w = .ok (.mrcT32 (w.extractLsb' 12 4).toFin (w.extractLsb' 0 4).toFin))
    ∧ (w &&& 0xFFFF0FF0#32 = 0xEE000EB0#32 →
      decodeWord .t32 w = .ok (.mcrT32 (w.extractLsb' 12 4).toFin (w.extractLsb' 0 4).toFin))
    ∧ (w &&& 0xFFFF0FF0#32 ≠ 0xEE100EB0#32 → w &&& 0xFFFF0FF0#32 ≠ 0xEE000EB0#32 →
      ∀ i, decodeWord .t32 w ≠ .ok i)

/-- 95_test_vectors.md section 2.6: words W4, W5 and W9 (A32) and W1, W8 (T32) stand for the instructions the
spec writes beside them. -/
def Obligations.WordsOfTheSpecDecode : Prop :=
  decode .a32 [0xB5, 0x1E, 0x00, 0xEE] = .ok (.mcrA32 condAlways 1 5, [])
  ∧ decode .a32 [0xBF, 0xEE, 0x10, 0xEE] = .ok (.mrcA32 condAlways 14 15, [])
  ∧ decode .a32 [0xB5, 0x0E, 0x10, 0x1E] = .ok (.mrcA32 0b0001 0 5, [])
  ∧ decode .t32 [0x10, 0xEE, 0xB0, 0x0E] = .ok (.mrcT32 0 0, [])
  ∧ decode .t32 [0x00, 0xEE, 0xB2, 0x3E] = .ok (.mcrT32 3 2, [])

/-- 30_encoding.md R62: an MRC or MCR with any other (coproc, opc1, CRn, CRm, opc2) is refused by name, in both
instruction sets. -/
def Obligations.OtherCoordinatesAreRefusedByName : Prop :=
  ∀ (set : InstrSet) (cond : BitVec 4) (l : BitVec 1) (c : Coordinates) (t : Fin 16),
    (set = .t32 → cond = 0b1110#4) → c ≠ dbgbcrAt c.crm.toFin →
      decodeWord set (moveWord cond l c t) = .error (.otherRegister c)

/-- 30_encoding.md R54 to R57: an assembler line is read into an instruction whose word carries the line's
operands, an omitted condition as "always" and an omitted opc2 as 0 (log 22); and the lines
`MRC|MCR p14, 0, Rt, c0, c<n>, 5` are read in both instruction sets. -/
def Obligations.AssemblerLineGivesItsWord : Prop :=
  (∀ (set : InstrSet) (line : AsmLine) (i : Instr), assemble set line = .ok i →
    i.set = set ∧ i.dir = line.dir
    ∧ encodeWord i = moveWord (line.cond.getD condAlways) (if line.dir = .read then 1#1 else 0#1)
        ⟨line.coproc, line.opc1, line.crn, line.crm, line.opc2.getD 0⟩ line.rt)
  ∧ (∀ (set : InstrSet) (dir : Dir) (t n : Fin 16),
    ∃ i, assemble set ⟨dir, none, none, 0b1110, 0, t, 0, BitVec.ofFin n, some 0b101⟩ = .ok i
      ∧ i.set = set ∧ i.dir = dir ∧ i.rt = t ∧ i.index = n)

/-! ### The access check -/

/-- 40_sysreg_access.md R63. -/
def Obligations.AccessAtEl0IsUndefined : Prop :=
  ∀ (i : Instr) (s : State), WellFormed i = true → s.el = .el0 → exec i s = .fault .undefined

/-- 00_scope.md R2. -/
def Obligations.AccessWithoutAArch32IsUndefined : Prop :=
  ∀ (i : Instr) (s : State), WellFormed i = true → s.impl.haveAnyAArch32 = false →
    exec i s = .fault .undefined

/-- 40_sysreg_access.md R64: the six tests at EL1, in their order. -/
def Obligations.El1TestsInOrder : Prop :=
  ∀ (i : Instr) (s : State), WellFormed i = true → s.el = .el1 → s.impl.haveAnyAArch32 = true →
    s.impl.implemented[i.index] = true →
    let c := s.ctx
    let test1 : Prop := c.halted = true ∧ c.haveEL3 = true ∧ c.edscrSdd = true
      ∧ s.impl.el3TrapPriorityWhenSdd = true ∧ c.el3UsingAArch32 = false ∧ c.mdcrEl3Tda = true
    let test2 : Prop := c.el2Enabled = true ∧ c.el2UsingAArch32 = false
      ∧ (c.mdcrEl2Tde = true ∨ c.mdcrEl2Tda = true)
    let test3 : Prop := c.el2Enabled = true ∧ c.el2UsingAArch32 = true ∧ (c.hdcrTde = true ∨ c.hdcrTda = true)
    let test4 : Prop := c.haveEL3 = true ∧ c.el3UsingAArch32 = false ∧ c.mdcrEl3Tda = true
    let test5 : Prop := c.oslk = false ∧ c.haltingAllowed = true ∧ c.edscrTda = true
    (test1 → exec i s = .fault .undefined)
    ∧ (¬ test1 → test2 → exec i s = .fault (.sysAccessTrap .el2 0x05))
    ∧ (¬ test1 → ¬ test2 → test3 → exec i s = .fault (.hypTrap 0x05))
    ∧ (¬ test1 → ¬ test2 → ¬ test3 → test4 → c.halted = true ∧ c.edscrSdd = true →
        exec i s = .fault .undefined)
    ∧ (¬ test1 → ¬ test2 → ¬ test3 → test4 → ¬ (c.halted = true ∧ c.edscrSdd = true) →
        exec i s = .fault (.sysAccessTrap .el3 0x05))
    ∧ (¬ test1 → ¬ test2 → ¬ test3 → ¬ test4 → test5 → exec i s = .fault (.halt .softwareAccess))
    ∧ (¬ test1 → ¬ test2 → ¬ test3 → ¬ test4 → ¬ test5 → ∃ t, exec i s = .next t)

/-- 40_sysreg_access.md R65: the tests at EL2, whatever the parameter EL3_TRAP_PRIORITY_WHEN_SDD is. -/
def Obligations.El2TestsInOrder : Prop :=
  ∀ (i : Instr) (s : State), WellFormed i = true → s.el = .el2 → s.impl.haveAnyAArch32 = true →
    s.impl.implemented[i.index] = true →
    let c := s.ctx
    let trap : Prop := c.haveEL3 = true ∧ c.el3UsingAArch32 = false ∧ c.mdcrEl3Tda = true
    let halt : Prop := c.oslk = false ∧ c.haltingAllowed = true ∧ c.edscrTda = true
    (trap → c.halted = true ∧ c.edscrSdd = true → exec i s = .fault .undefined)
    ∧ (trap → ¬ (c.halted = true ∧ c.edscrSdd = true) → exec i s = .fault (.sysAccessTrap .el3 0x05))
    ∧ (¬ trap → halt → exec i s = .fault (.halt .softwareAccess))
    ∧ (¬ trap → ¬ halt → ∃ t, exec i s = .next t)

/-- 40_sysreg_access.md R66: at EL3 only the halt condition is tested. -/
def Obligations.El3TestsTheHaltOnly : Prop :=
  ∀ (i : Instr) (s : State), WellFormed i = true → s.el = .el3 → s.impl.haveAnyAArch32 = true →
    s.impl.implemented[i.index] = true →
    let halt : Prop := s.ctx.oslk = false ∧ s.ctx.haltingAllowed = true ∧ s.ctx.edscrTda = true
    (halt → exec i s = .fault (.halt .softwareAccess)) ∧ (¬ halt → ∃ t, exec i s = .next t)

/-- 40_sysreg_access.md R64 (c): EL3_TRAP_PRIORITY_WHEN_SDD changes an outcome only at EL1 and only where the
trap to EL2, in one of its forms, would be taken without it, and what it makes of that trap is Undefined. -/
def Obligations.TrapPriorityMattersOnlyOverTheEl2Traps : Prop :=
  ∀ (c : Context) (el : EL), accessCheck true c el ≠ accessCheck false c el →
    el = .el1 ∧ accessCheck true c el = some .undefined
    ∧ (accessCheck false c el = some (.sysAccessTrap .el2 0x05) ∨ accessCheck false c el = some (.hypTrap 0x05))

/-- 40_sysreg_access.md R67: the MRC and the MCR meet the same outcome in the same context, in either
instruction set, whatever Rt is and whatever the registers hold. -/
def Obligations.ReadAndWriteMeetTheSameOutcome : Prop :=
  ∀ (i j : Instr) (s s' : State), WellFormed i = true → WellFormed j = true → i.index = j.index →
    s'.impl = s.impl → s'.ctx = s.ctx → s'.el = s.el → s'.draws = s.draws →
    (∀ f, exec i s = .fault f ↔ exec j s' = .fault f)
    ∧ ((∃ t, exec i s = .next t) ↔ ∃ t, exec j s' = .next t)

/-- 40_sysreg_access.md R68: where the two existence checks stand. The placement is the spec's own decision (92
D6); where UNIMPL_CHECK_FIRST is not fixed the choice is free (log 12, DESIGN CHOICE). -/
def Obligations.ExistenceChecksOfAnAccess : Prop :=
  ∀ (i : Instr) (s : State), WellFormed i = true →
    (s.impl.haveAnyAArch32 = false → exec i s = .fault .undefined)
    ∧ (s.impl.haveAnyAArch32 = true → s.impl.implemented[i.index] = true →
        (∀ o, stateCheck s = some o → exec i s = .fault o)
        ∧ (stateCheck s = none → ∃ t, exec i s = .next t))
    ∧ (s.impl.haveAnyAArch32 = true → s.impl.implemented[i.index] = false →
        (stateCheck s = none → exec i s = .fault .undefined)
        ∧ (∀ o, stateCheck s = some o →
            (exec i s = .fault o ∨ exec i s = .fault .undefined)
            ∧ (s.impl.unimplCheckFirst = some true → exec i s = .fault .undefined)
            ∧ (s.impl.unimplCheckFirst = some false → exec i s = .fault o)))

/-- 60_exceptions.md R73 (with R74 for where Undefined is raised): the outcomes are closed, each raised where the
table names. -/
def Obligations.OutcomesAreClosed : Prop :=
  ∀ (i : Instr) (s : State), WellFormed i = true →
    (∃ t, exec i s = .next t ∧ (s.el = .el1 ∨ s.el = .el2 ∨ s.el = .el3))
    ∨ (exec i s = .fault .undefined
      ∧ (s.el = .el0 ∨ s.impl.haveAnyAArch32 = false ∨ s.impl.implemented[i.index] = false
        ∨ ((s.el = .el1 ∨ s.el = .el2) ∧ s.ctx.halted = true ∧ s.ctx.edscrSdd = true
          ∧ s.ctx.haveEL3 = true ∧ s.ctx.el3UsingAArch32 = false ∧ s.ctx.mdcrEl3Tda = true)))
    ∨ (exec i s = .fault (.sysAccessTrap .el2 0x05) ∧ s.el = .el1)
    ∨ (exec i s = .fault (.hypTrap 0x05) ∧ s.el = .el1)
    ∨ (exec i s = .fault (.sysAccessTrap .el3 0x05) ∧ (s.el = .el1 ∨ s.el = .el2))
    ∨ (exec i s = .fault (.halt .softwareAccess) ∧ (s.el = .el1 ∨ s.el = .el2 ∨ s.el = .el3))

/-- 40_sysreg_access.md R63 to R68 put together: an access succeeds exactly under the conditions listed in
`AccessAllowed`. -/
def Obligations.AccessSucceedsExactlyWhenAllowed : Prop :=
  ∀ (s : State) (n : Fin 16), access s n = none ↔ AccessAllowed s n

/-- 30_encoding.md R60, R61: the refused forms, in every state. -/
def Obligations.FormsTheSpecRefusesAreRefused : Prop :=
  ∀ (cond : BitVec 4) (t n : Fin 16) (s : State),
    (cond ≠ 0b1110#4 → exec (.mrcA32 cond t n) s = .refused (.conditionalForm cond)
      ∧ exec (.mcrA32 cond t n) s = .refused (.conditionalForm cond))
    ∧ (exec (.mrcA32 0b1110#4 15 n) s = .refused .programCounterOperand
      ∧ exec (.mcrA32 0b1110#4 15 n) s = .refused .programCounterOperand
      ∧ exec (.mrcT32 15 n) s = .refused .programCounterOperand
      ∧ exec (.mcrT32 15 n) s = .refused .programCounterOperand)

/-! ### The read and the write -/

/-- 40_sysreg_access.md R69: MRC, in A32 and in T32. Where the access is allowed it completes with
`x[t] <- ReadDBGBCR(n)` and `pc <- pc + 4`; any other outcome is raised. -/
def Obligations.MrcReadsTheRegisterIntoRt : Prop :=
  ∀ (s : State) (t : Fin 15) (n : Fin 16) (i : Instr),
    i = .mrcA32 condAlways (t.castLE (by decide)) n ∨ i = .mrcT32 (t.castLE (by decide)) n →
    (AccessAllowed s n → ∃ s', exec i s = .next s' ∧ s'.x = s.x.set t (readDbgbcr n s) ∧ s'.pc = s.pc + 4
      ∧ s'.dbgbcr = s.dbgbcr)
    ∧ (∀ o, access s n = some o → exec i s = .fault o)

/-- 40_sysreg_access.md R70: MCR, in A32 and in T32. Where the access is allowed it completes with
`DBGBCR[n] <- x[t]`, all 32 bits, and `pc <- pc + 4`; any other outcome is raised. -/
def Obligations.McrWritesRtToTheRegister : Prop :=
  ∀ (s : State) (t : Fin 15) (n : Fin 16) (i : Instr),
    i = .mcrA32 condAlways (t.castLE (by decide)) n ∨ i = .mcrT32 (t.castLE (by decide)) n →
    (AccessAllowed s n → ∃ s', exec i s = .next s' ∧ s'.dbgbcr = s.dbgbcr.set n s.x[t] ∧ s'.pc = s.pc + 4
      ∧ s'.x = s.x)
    ∧ (∀ o, access s n = some o → exec i s = .fault o)

/-- The frame of MRC (R69, R71): everything but x[t], the pc and the model's count of draws (log 9) is
unchanged, every byte of program text among it. -/
def Obligations.MrcFrame : Prop :=
  ∀ (i : Instr) (s s' : State), i.dir = .read → exec i s = .next s' →
    (∀ (u : Nat) (hu : u < 15), u ≠ i.rt.val → s'.x[u] = s.x[u])
    ∧ s'.impl = s.impl ∧ s'.dbgbcr = s.dbgbcr ∧ s'.unknown = s.unknown ∧ s'.everEnabled = s.everEnabled
    ∧ s'.companion = s.companion ∧ s'.ctx = s.ctx ∧ s'.el = s.el ∧ s'.iset = s.iset ∧ s'.inputs = s.inputs
    ∧ s'.laterInputs = s.laterInputs ∧ s'.eventRequest = s.eventRequest ∧ ∀ a, Memory.read s'.mem a = Memory.read s.mem a

/-- The frame of MCR (R70, R71): no general register, no other DBGBCR, no context, level or companion register
and no byte of program text changes; of the model's own marks only those of the register written do (log 8,
log 11). -/
def Obligations.McrFrame : Prop :=
  ∀ (i : Instr) (s s' : State), i.dir = .write → exec i s = .next s' →
    (∀ m : Fin 16, m ≠ i.index → s'.dbgbcr[m] = s.dbgbcr[m] ∧ s'.unknown[m] = s.unknown[m]
      ∧ s'.everEnabled[m] = s.everEnabled[m])
    ∧ s'.x = s.x ∧ s'.impl = s.impl ∧ s'.companion = s.companion ∧ s'.ctx = s.ctx ∧ s'.el = s.el
    ∧ s'.iset = s.iset ∧ s'.inputs = s.inputs ∧ s'.laterInputs = s.laterInputs ∧ s'.draws = s.draws
    ∧ s'.eventRequest = s.eventRequest
    ∧ ∀ a, Memory.read s'.mem a = Memory.read s.mem a

/-- 10_state.md R38, with R10 to R12, R30 (as 92 D12 reads it, log 18), R36 and 92 D20: every field of the value an MRC puts into Rt, for a
register that holds a known value. A field whose value the source leaves open is the draw's, and so
unconstrained (log 9); E is never drawn; the read leaves the bank, the companion registers, the context and the level as
they were. -/
def Obligations.ReadReturnsEveryField : Prop :=
  ∀ (i : Instr) (s s' : State) (n : Fin 16), i.dir = .read → i.index = n → exec i s = .next s' →
    s.unknown[n] = false →
    ∃ h : i.rt.val < 15,
      let v := unpack s.dbgbcr[n]
      let d := unpack (Config.freeWord s.draws)
      let r := unpack (s'.x[i.rt.val]'h)
      s'.dbgbcr = s.dbgbcr ∧ s'.companion = s.companion ∧ s'.ctx = s.ctx ∧ s'.el = s.el
      ∧ r.e = v.e
      ∧ (btPermitted s.impl n v.bt = true → r.bt = v.bt)
      ∧ (btPermitted s.impl n v.bt = false → r.bt = d.bt)
      ∧ (v.bt = 0b0001#4 → r.lbn = v.lbn)
      ∧ (v.bt ≠ 0b0001#4 → r.lbn = d.lbn)
      ∧ (execPermitted s.impl v = true → r.ssc = v.ssc ∧ r.hmc = v.hmc ∧ r.pmc = v.pmc)
      ∧ (execPermitted s.impl v = false → r.ssc = d.ssc ∧ r.hmc = d.hmc ∧ r.pmc = d.pmc)
      ∧ (btClass v.bt ≠ .contextMatching → basPermitted (btClass v.bt) v.bas = true → r.bas = v.bas)
      ∧ (basPermitted (btClass v.bt) v.bas = false → r.bas = d.bas)
      ∧ (btClass v.bt = .contextMatching → r.bas = v.bas ||| d.bas)
      ∧ (s.impl.res0Stores = some true → r.res31 = v.res31 ∧ r.res12 = v.res12 ∧ r.res4 = v.res4)
      ∧ (s.impl.res0Stores = some false → r.res31 = 0 ∧ r.res12 = 0 ∧ r.res4 = 0)
      ∧ (s.impl.res0Stores = none → r.res31 = v.res31 &&& d.res31 ∧ r.res12 = v.res12 &&& d.res12
          ∧ r.res4 = v.res4 &&& d.res4)

/-- 70_reset_and_hazards.md R87, R89 and 40_sysreg_access.md R69 (a): a read of a register not written since a
Cold reset completes, each named field of the value is the draw's, and each RES0 range is the draw's or, where
RES0_STORES is false, 0 (log 8). -/
def Obligations.ReadBeforeTheFirstWriteIsADraw : Prop :=
  ∀ (s : State) (t : Fin 15) (n : Fin 16) (i : Instr),
    i = .mrcA32 condAlways (t.castLE (by decide)) n ∨ i = .mrcT32 (t.castLE (by decide)) n →
    AccessAllowed s n → s.unknown[n] = true →
    ∃ s', exec i s = .next s' ∧ s'.x[t] &&& 0x00FFE1E7#32 = Config.freeWord s.draws &&& 0x00FFE1E7#32 ∧
      let r := unpack s'.x[t]
      let d := unpack (Config.freeWord s.draws)
      (s.impl.res0Stores = some true → r.res31 = d.res31 ∧ r.res12 = d.res12 ∧ r.res4 = d.res4)
      ∧ (s.impl.res0Stores = some false → r.res31 = 0 ∧ r.res12 = 0 ∧ r.res4 = 0)
      ∧ (s.impl.res0Stores = none → r.res31 = d.res31 ∧ r.res12 = d.res12 ∧ r.res4 = d.res4)

/-- 40_sysreg_access.md R72: after a successful MCR of w to DBGBCR<n>, a successful MRC of it (by the same or
the other instruction set) returns what R38 says of w; the masks are the rule's. The second access completes,
since nothing it checks has changed. -/
def Obligations.ReadAfterWriteReturnsTheValueWritten : Prop :=
  ∀ (i j : Instr) (s s1 : State), i.dir = .write → j.dir = .read → j.index = i.index → WellFormed j = true →
    exec i s = .next s1 →
    ∃ (ht : i.rt.val < 15) (hu : j.rt.val < 15) (s2 : State), exec j s1 = .next s2 ∧
      let w := s.x[i.rt.val]'ht
      let r := s2.x[j.rt.val]'hu
      r = readValue s1.impl i.index false w (Config.freeWord s1.draws)
      ∧ (AllPermitted s.impl i.index w → btClass (unpack w).bt ≠ .contextMatching →
          r &&& 0x00F0E1E7#32 = w &&& 0x00F0E1E7#32)
      ∧ (AllPermitted s.impl i.index w → btClass (unpack w).bt = .contextMatching →
          r &&& 0x00F0E007#32 = w &&& 0x00F0E007#32)
      ∧ ((unpack w).bt = 0b0001#4 → r &&& 0x000F0000#32 = w &&& 0x000F0000#32)

/-- 40_sysreg_access.md R69 (e): a read of DBGBCR<n> never depends on DBGBCR<m>, m different from n: changing
one changes neither the outcome nor the value read. -/
def Obligations.ReadIsIndependentOfOtherBreakpoints : Prop :=
  ∀ (i : Instr) (s : State) (m : Fin 16) (v : Word), i.dir = .read → m ≠ i.index →
    let s2 : State := writeDbgbcr m v s
    (∀ s', exec i s = .next s' → ∃ s2', exec i s2 = .next s2' ∧ s2'.x = s'.x ∧ s2'.pc = s'.pc)
    ∧ (∀ f, exec i s = .fault f → exec i s2 = .fault f)
    ∧ (∀ r, exec i s = .refused r → exec i s2 = .refused r)

/-! ### The fields -/

/-- 10_state.md R8: a value is determined by its ten fields; the eight masks cut out the fields (the RES0 mask
the three reserved ranges), are disjoint and cover the register. -/
def Obligations.FieldsAreTheWholeRegister : Prop :=
  (∀ v w : Word, unpack v = unpack w → v = w)
  ∧ ∀ v : Word,
      let f := unpack v
      let zero : Fields := ⟨0, 0, 0, 0, 0, 0, 0, 0, 0, 0⟩
      unpack (v &&& 0xFF001E18#32) = { zero with res31 := f.res31, res12 := f.res12, res4 := f.res4 }
      ∧ unpack (v &&& 0x00F00000#32) = { zero with bt := f.bt }
      ∧ unpack (v &&& 0x000F0000#32) = { zero with lbn := f.lbn }
      ∧ unpack (v &&& 0x0000C000#32) = { zero with ssc := f.ssc }
      ∧ unpack (v &&& 0x00002000#32) = { zero with hmc := f.hmc }
      ∧ unpack (v &&& 0x000001E0#32) = { zero with bas := f.bas }
      ∧ unpack (v &&& 0x00000006#32) = { zero with pmc := f.pmc }
      ∧ unpack (v &&& 0x00000001#32) = { zero with e := f.e }

/-- 10_state.md R13, R30, R34 to R36: the class of every BT value, the linked address types that use LBN, and
the permitted BAS values of each class. -/
def Obligations.ClassesOfBtAndBas : Prop :=
  ∀ (f : Fields) (bt bas : BitVec 4),
    (btClass bt = .addressMatch ↔ bt = 0b0000#4 ∨ bt = 0b0001#4)
    ∧ (btClass bt = .addressMismatch ↔ bt = 0b0100#4 ∨ bt = 0b0101#4)
    ∧ (linkedTo f = if f.bt = 0b0001#4 ∨ f.bt = 0b0101#4 then some f.lbn.toFin else none)
    ∧ (basPermitted .addressMatch bas = true ↔ bas = 0b0011#4 ∨ bas = 0b1100#4 ∨ bas = 0b1111#4)
    ∧ (basPermitted .addressMismatch bas = true ↔
        bas = 0b0000#4 ∨ bas = 0b0011#4 ∨ bas = 0b1100#4 ∨ bas = 0b1111#4)
    ∧ basPermitted .contextMatching bas = true

/-- 10_state.md R16, R17: the compare target of BT = 0b0010 and 0b0011. -/
def Obligations.ContextIdMatchSelectsItsTarget : Prop :=
  ∀ (s : State) (n : Fin 16),
    (unpack s.dbgbcr[n]).bt = 0b0010#4 ∨ (unpack s.dbgbcr[n]).bt = 0b0011#4 →
    let atEl2 : Prop := s.impl.haveVHE = true ∧ s.ctx.el2UsingAArch32 = false ∧ s.companion.effectiveE2H = true
      ∧ ((s.el = .el0 ∧ s.companion.hcrTge = true) ∨ s.el = .el2)
    btClass (unpack s.dbgbcr[n]).bt = .contextMatching
    ∧ (linked (unpack s.dbgbcr[n]).bt = true ↔ (unpack s.dbgbcr[n]).bt = 0b0011#4)
    ∧ (atEl2 → comparisons s n
      = [.contextId (Config.contextIdOf s.companion.bvr[n]) s.companion.contextidrEl2])
    ∧ (¬ atEl2 → comparisons s n
      = [.contextId (Config.contextIdOf s.companion.bvr[n]) s.companion.contextidr])

/-- 10_state.md R14, R15, R18, R19, with the BAS tables and halfwords of R34 and R35: the class and the linking of
the address types, whether they read LBN (R30; that 0b0101 does is 92 D12 (b), log 18), the instruction address
they look for (log 16: DBGBVR<n>+2 does not wrap) and the halfwords selected. -/
def Obligations.AddressTypesLookAtTheHalfwordBasSelects : Prop :=
  ∀ (s : State) (n : Fin 16),
    let bt := (unpack s.dbgbcr[n]).bt
    let bas := (unpack s.dbgbcr[n]).bas
    let a := s.companion.bvr[n]
    (bt = 0b0000#4 ∨ bt = 0b0100#4 → linked bt = false ∧ linkedTo (unpack s.dbgbcr[n]) = none)
    ∧ (bt = 0b0001#4 ∨ bt = 0b0101#4 → linked bt = true
      ∧ linkedTo (unpack s.dbgbcr[n]) = some (unpack s.dbgbcr[n]).lbn.toFin)
    ∧ (bt = 0b0000#4 ∨ bt = 0b0001#4 → btClass bt = .addressMatch ∧
      (bas = 0b0011#4 → comparisons s n = [.instructionAt a [a]])
      ∧ (bas = 0b1100#4 → comparisons s n = [.instructionAt (a + 2) [a + 2]])
      ∧ (bas = 0b1111#4 → comparisons s n = [.instructionAt a [a, a + 2]]))
    ∧ (bt = 0b0100#4 ∨ bt = 0b0101#4 → btClass bt = .addressMismatch ∧
      (bas = 0b0011#4 → comparisons s n = [.instructionStepped a [a]])
      ∧ (bas = 0b1100#4 → comparisons s n = [.instructionStepped (a + 2) [a + 2]])
      ∧ (bas = 0b1111#4 → comparisons s n = [.instructionStepped a [a, a + 2]])
      ∧ (bas = 0b0000#4 → comparisons s n = [.steppedAnywhere]))

/-- 10_state.md R20 to R29: what the remaining Context matching types compare. -/
def Obligations.ContextTypesCompareTheirRegisters : Prop :=
  ∀ (s : State) (n : Fin 16),
    let bt := (unpack s.dbgbcr[n]).bt
    let c := s.companion
    let byContextId : Comparison := .contextId (Config.contextIdOf c.bvr[n]) c.contextidr
    let byContextId2 : Comparison := .contextId (Config.contextId2Of c.bxvr[n]) c.contextidrEl2
    let byVmid : Comparison := .vmid (Config.vmidOf c.bxvr[n]) c.vttbrVmid
    (bt = 0b0110#4 ∨ bt.extractLsb' 3 1 = 1#1 ∨ bt = 0b0111#4 →
      btClass bt = .contextMatching ∧ linkedTo (unpack s.dbgbcr[n]) = none
      ∧ (linked bt = true ↔ bt = 0b0111#4 ∨ bt = 0b1001#4 ∨ bt = 0b1011#4 ∨ bt = 0b1101#4 ∨ bt = 0b1111#4))
    ∧ (bt = 0b0110#4 ∨ bt = 0b0111#4 → comparisons s n = [byContextId])
    ∧ (bt = 0b1000#4 ∨ bt = 0b1001#4 → comparisons s n = [byVmid])
    ∧ (bt = 0b1010#4 ∨ bt = 0b1011#4 → comparisons s n = [byContextId, byVmid])
    ∧ (bt = 0b1100#4 ∨ bt = 0b1101#4 → comparisons s n = [byContextId2])
    ∧ (bt = 0b1110#4 ∨ bt = 0b1111#4 → comparisons s n = [byContextId, byContextId2])

/-! ### The Breakpoint debug event -/

/-- 60_exceptions.md R80: a Breakpoint debug event takes a step's place exactly where the free choice asks for it
(log 10), no input is pending (log 15), AArch32 is supported (R2, log 19), the breakpoint is implemented, and it may
be enabled: its value is not known since a Cold reset (R87); or E is 1 and the conditions of R80 hold; or E is 1 and
its behaviour is in no source, which is a reserved BT, {HMC, SSC, PMC} or BAS (92 D20), a missing DBGBXVR<n> (93
U11), an Address mismatch type in another regime (log 26), or a partner without a known value (log 27); or, under
WRITE_EFFECT (a) or (c), it was enabled before (log 11). -/
def Obligations.EventNeedsAnEnabledBreakpoint : Prop :=
  ∀ (s : State) (n : Fin 16),
    let f := unpack s.dbgbcr[n]
    let conditions : Prop := Config.execCond f.hmc f.ssc f.pmc s.ctx s.el = true
      ∧ (∀ c ∈ comparisons s n, comparisonHolds (situation s) c = true)
      ∧ (linked f.bt = true →
          Config.linkCond n (linkedTo f) (Vector.ofFn (breakpointView s)) (situation s) = true)
    let inNoSource : Prop := btPermitted s.impl n f.bt = false ∨ execPermitted s.impl f = false
      ∨ basPermitted (btClass f.bt) f.bas = false
      ∨ (f.bt.extractLsb' 3 1 = 1#1 ∧ ¬ (s.impl.haveEL2 = true ∧ s.impl.ctxCapable[n] = true))
      ∨ ((f.bt = 0b0100#4 ∨ f.bt = 0b0101#4) ∧ Config.aarch32Stage1 s.draws = false)
      ∨ ((f.bt = 0b0001#4 ∨ f.bt = 0b0101#4) ∧ s.unknown[f.lbn.toFin] = true)
    step s = .fault (.breakpointDebugEvent n) ↔
      s.eventRequest = some n ∧ s.inputs = [] ∧ s.impl.haveAnyAArch32 = true ∧ s.impl.implemented[n] = true
      ∧ (s.unknown[n] = true ∨ (f.e = 1#1 ∧ (conditions ∨ inNoSource))
        ∨ (s.impl.writeEffect ≠ .nextInstruction ∧ s.everEnabled[n] = true))

/-- 60_exceptions.md R80 with 92 D18 (b): when every implemented DBGBCR[n][0] is 0 the fault is impossible, and it
stays so: every step keeps the condition unless it took a Cold reset or a write of a value with E = 1 through
another view (log 15), or ran an MCR of a value with E = 1. So a Warm reset, a change of the context or of the
companion registers, an MRC and the MCR with E = 0 of 70_reset_and_hazards.md R91 keep it. -/
def Obligations.NoEventWhenEveryBreakpointIsDisabled : Prop :=
  ∀ s : State, s.impl.writeEffect = .nextInstruction → AllDisabled s →
    (∀ m, step s ≠ .fault (.breakpointDebugEvent m))
    ∧ ∀ t, step s = .next t →
      (∀ l rest, s.inputs ≠ .coldReset l :: rest) →
      (∀ v n w rest, s.inputs = .viewWrite v n w :: rest → enabled w = false) →
      (∀ (i : Instr) (h : i.rt.val < 15), s.inputs = [] → fetch s = .ok i → i.dir = .write →
        enabled (s.x[i.rt.val]'h) = false) →
      AllDisabled t ∧ t.impl.writeEffect = .nextInstruction

/-- 60_exceptions.md R80 with 70_reset_and_hazards.md R87: from a Cold reset until software has written the
register, the event asked for takes the place of any step, whatever stands at the pc. -/
def Obligations.EventIsPossibleWhileAValueIsUnknown : Prop :=
  ∀ (s : State) (n : Fin 16), s.inputs = [] → s.impl.haveAnyAArch32 = true → s.impl.implemented[n] = true →
    s.unknown[n] = true → s.eventRequest = some n → step s = .fault (.breakpointDebugEvent n)

/-- 10_state.md R9 with 92 D18 (b): with E = 0 no value of the other fields has any effect on whether the
breakpoint generates an event, and it generates none. -/
def Obligations.DisabledBreakpointIgnoresItsFields : Prop :=
  ∀ (s : State) (n : Fin 16) (w : Word), s.impl.writeEffect = .nextInstruction → (unpack w).e = 0#1 →
    mayFire (writeDbgbcr n w s) n = false
    ∧ ∀ t, step (writeDbgbcr n w s) = t → t ≠ .fault (.breakpointDebugEvent n)

/-! ### The step -/

/-- A step runs the decoded instruction: with no input pending and no event taking its place, `step` is `exec`
of the instruction the bytes at the pc decode to; to a next state the step adds the free choice of the next
event (log 10) and the inputs that arrive (log 15), to a fault or a refusal nothing. -/
def Obligations.StepRunsTheDecodedInstruction : Prop :=
  ∀ (s : State) (i : Instr) (rest : List Byte), s.inputs = [] → pendingEvent s = none →
    decode s.iset (Memory.readBytes s.mem s.pc 4) = .ok (i, rest) →
    (∀ t, exec i s = .next t →
      step s = .next { t with eventRequest := Config.freeEvent t.draws, draws := t.draws + 1,
                              inputs := t.laterInputs.headD [], laterInputs := t.laterInputs.tail })
    ∧ (∀ f, exec i s = .fault f → step s = .fault f)
    ∧ (∀ r, exec i s = .refused r → step s = .refused r)

/-- An instruction whose encoding lies at the pc is run: every MRC and MCR, in A32 and T32, from every state
whose access is allowed, with no input pending and no event asked for, steps to a next state with the pc past
it. -/
def Obligations.StepCompletesTheEncodedAccess : Prop :=
  ∀ (s : State) (i : Instr), s.inputs = [] → s.eventRequest = none → s.iset = i.set → WellFormed i = true →
    Memory.readBytes s.mem s.pc 4 = encode i → AccessAllowed s i.index →
    ∃ t, step s = .next t ∧ t.pc = s.pc + 4 ∧ t.iset = s.iset ∧ t.mem = s.mem

/-- `withFetchWord` places the instruction of an opcode-table number so that the very next step runs exactly
it. -/
def Obligations.StepRunsThePlacedWord : Prop :=
  ∀ (s : State) (nbits w : Nat) (i : Instr), decodeTableWord nbits w = some i →
    step (s.withFetchWord nbits w) = onNext afterInstruction (exec i (s.withFetchWord nbits w))

/-- 20_memory.md R53 and log 1: where no program text is listed at the pc, a step with no input and no event
stops with the fault that names the address. -/
def Obligations.StepWithoutProgramTextFaults : Prop :=
  ∀ s : State, s.inputs = [] → s.eventRequest = none → Memory.read s.mem s.pc = none →
    step s = .fault (.noProgramText s.pc)

/-! ### Reset and the other inputs -/

/-- 70_reset_and_hazards.md R87: after reset every DBGBCR<n> holds no known value, a read returns a draw in
every named field, and the breakpoint may fire; that all sixteen are implemented is the model's (log 7). -/
def Obligations.ResetLeavesNoKnownBreakpoint : Prop :=
  ∀ n : Fin 16, State.reset.unknown[n] = true
    ∧ readDbgbcr n State.reset &&& 0x00FFE1E7#32 = Config.freeWord State.reset.draws &&& 0x00FFE1E7#32
    ∧ mayFire State.reset n = true

/-- 70_reset_and_hazards.md R87: a Cold reset leaves, in each named field of every register, a draw of its own,
and no known value (log 8). Everything else that R90 leaves open has the values the reset input carries, under no
constraint (92 D19, log 15); HaveEL3 is configuration and stays (log 20). -/
def Obligations.ColdResetDrawsEveryField : Prop :=
  ∀ (s : State) (l : Launch) (rest : List Input), s.inputs = .coldReset l :: rest →
    ∃ t, step s = .next t ∧ (∀ n : Fin 16, t.unknown[n] = true ∧ t.everEnabled[n] = true
        ∧ t.dbgbcr[n] &&& 0x00FFE1E7#32 = Config.freeWord (s.draws + n.val) &&& 0x00FFE1E7#32)
      ∧ t.draws = s.draws + 16 ∧ t.impl = s.impl ∧ t.mem = s.mem ∧ t.inputs = rest
      ∧ t.laterInputs = s.laterInputs ∧ t.eventRequest = s.eventRequest
      ∧ t.x = l.x ∧ t.el = l.el ∧ t.pc = l.pc ∧ t.iset = l.iset ∧ t.companion = l.companion
      ∧ t.ctx = { l.ctx with haveEL3 := s.ctx.haveEL3 }

/-- 70_reset_and_hazards.md R88: a Warm reset leaves the seven named fields of every register as they were; what
was not known is not made known (95 Z5, log 8). Everything else that R90 leaves open has the values the reset input
carries (92 D19, log 15); HaveEL3 stays (log 20). -/
def Obligations.WarmResetKeepsTheNamedFields : Prop :=
  ∀ (s : State) (l : Launch) (rest : List Input), s.inputs = .warmReset l :: rest →
    ∃ t, step s = .next t ∧ (∀ n : Fin 16,
        t.dbgbcr[n] &&& 0x00FFE1E7#32 = s.dbgbcr[n] &&& 0x00FFE1E7#32
        ∧ enabled t.dbgbcr[n] = enabled s.dbgbcr[n] ∧ t.unknown[n] = s.unknown[n]
        ∧ t.everEnabled[n] = s.everEnabled[n])
      ∧ t.draws = s.draws ∧ t.impl = s.impl ∧ t.mem = s.mem ∧ t.inputs = rest
      ∧ t.laterInputs = s.laterInputs ∧ t.eventRequest = s.eventRequest
      ∧ t.x = l.x ∧ t.el = l.el ∧ t.pc = l.pc ∧ t.iset = l.iset ∧ t.companion = l.companion
      ∧ t.ctx = { l.ctx with haveEL3 := s.ctx.haveEL3 }

/-- 20_memory.md R45: what another view writes is what a later MRC returns, subject to R38 (the write is an input,
log 15); of the state nothing but that register with its marks changes, and an index that is not implemented has
no register to change (log 25). -/
def Obligations.WriteThroughAnotherViewIsRead : Prop :=
  ∀ (s : State) (view : View) (n : Fin 16) (w : Word) (rest : List Input),
    s.inputs = .viewWrite view n w :: rest →
    ∃ t, step s = .next t
      ∧ (∀ m : Fin 16, m ≠ n → t.dbgbcr[m] = s.dbgbcr[m] ∧ t.unknown[m] = s.unknown[m]
          ∧ t.everEnabled[m] = s.everEnabled[m])
      ∧ t.x = s.x ∧ t.pc = s.pc ∧ t.el = s.el ∧ t.iset = s.iset ∧ t.ctx = s.ctx ∧ t.companion = s.companion
      ∧ t.impl = s.impl ∧ t.mem = s.mem ∧ t.draws = s.draws ∧ t.eventRequest = s.eventRequest
      ∧ t.inputs = rest ∧ t.laterInputs = s.laterInputs
      ∧ (s.impl.implemented[n] = false →
          t.dbgbcr = s.dbgbcr ∧ t.unknown = s.unknown ∧ t.everEnabled = s.everEnabled)
      ∧ (s.impl.implemented[n] = true → t.dbgbcr[n] = w ∧
          ∀ (i : Instr) (u : State), i.dir = .read → i.index = n → exec i t = .next u →
            ∃ h : i.rt.val < 15, u.x[i.rt.val]'h = readValue s.impl n false w (Config.freeWord t.draws))

/-! ### Rules of the whole machine -/

/-- The invariant: every step that answers a next state, an input's or an instruction's, keeps the program text
in canonical form and forgets no breakpoint that may be enabled. -/
def Obligations.StepKeepsTheInvariant : Prop :=
  ∀ s t : State, Inv s → step s = .next t → Inv t

/-- The invariant holds after reset. -/
def Obligations.ResetMeetsTheInvariant : Prop := Inv State.reset

/-- 00_scope.md R4, 20_memory.md R53: no step changes the configuration (HaveEL3 in the context record among
it) or the program text. -/
def Obligations.StepKeepsConfigurationAndText : Prop :=
  ∀ s t : State, step s = .next t →
    t.impl = s.impl ∧ t.ctx.haveEL3 = s.ctx.haveEL3 ∧ ∀ a, Memory.read t.mem a = Memory.read s.mem a

/-- 40_sysreg_access.md R71 over the whole machine: a step that takes no input changes no field of the context,
no companion register, not the Exception level; of the instruction fetched it changes, for an MRC, no general
register but its x[t] and no DBGBCR, and for an MCR no DBGBCR but its DBGBCR<n> and no general register; the next
batch of inputs arrives after it (log 15). -/
def Obligations.InstructionStepKeepsTheRest : Prop :=
  ∀ s t : State, s.inputs = [] → step s = .next t →
    t.ctx = s.ctx ∧ t.companion = s.companion ∧ t.el = s.el ∧ t.iset = s.iset
    ∧ t.inputs = s.laterInputs.headD [] ∧ t.laterInputs = s.laterInputs.tail ∧ t.pc = s.pc + 4
    ∧ ∃ i, fetch s = .ok i
      ∧ (i.dir = .read → t.dbgbcr = s.dbgbcr ∧ ∀ u : Fin 15, u.val ≠ i.rt.val → t.x[u] = s.x[u])
      ∧ (i.dir = .write → t.x = s.x ∧ ∀ m : Fin 16, m ≠ i.index → t.dbgbcr[m] = s.dbgbcr[m])

/-- 10_state.md R7, 20_memory.md R52: the bank changes in three ways only: a Cold reset, a write through another
view (both inputs, log 15), or an MCR at the pc at EL1, EL2 or EL3, the last two of an implemented breakpoint
(log 25); under the premise NoOtherWriter the second is excluded. -/
def Obligations.BankIsWrittenByThreeMeansOnly : Prop :=
  ∀ (s t : State) (n : Fin 16), step s = .next t → t.dbgbcr[n] ≠ s.dbgbcr[n] →
    (∃ l rest, s.inputs = .coldReset l :: rest)
    ∨ (NoOtherWriter s = false ∧ s.impl.implemented[n] = true ∧ ∃ v w rest, s.inputs = .viewWrite v n w :: rest)
    ∨ (s.inputs = [] ∧ s.impl.implemented[n] = true ∧ s.el ≠ .el0
        ∧ ∃ i, fetch s = .ok i ∧ i.dir = .write ∧ i.index = n)

/-- 60_exceptions.md R84: at EL0 there is no access: no step of the PE at EL0 answers a next state. -/
def Obligations.NoInstructionCompletesAtEl0 : Prop :=
  ∀ s t : State, s.el = .el0 → s.inputs = [] → step s ≠ .next t

/-- 60_exceptions.md R84 with 10_state.md R43: the Exception level changes by a reset only. -/
def Obligations.LevelChangesByResetOnly : Prop :=
  ∀ s t : State, step s = .next t → t.el ≠ s.el →
    (∃ l rest, s.inputs = .coldReset l :: rest) ∨ (∃ l rest, s.inputs = .warmReset l :: rest)

/-- 10_state.md R41: the consistency facts a claim may add as premises hold after every instruction of a run in
which they held before it. -/
def Obligations.ConsistencyIsKeptByInstructions : Prop :=
  ∀ s t : State, s.inputs = [] → ArmConsistent s → step s = .next t → ArmConsistent t

/-- 00_scope.md section 5 and 92 D8: which draws a step uses, and that the count then stands past them, so that no
later step uses them again (log 9): an MRC makes its value with the draw at the count, a Cold reset fills register n
with the n-th draw from the count on, the choice of the next event after an instruction is the one at the count
before its last advance, and another input uses none. -/
def Obligations.NoDrawIsUsedTwice : Prop :=
  ∀ s t : State, step s = .next t →
    (∀ i, s.inputs = [] → fetch s = .ok i →
      t.draws = s.draws + (if i.dir = .read then 2 else 1) ∧ t.eventRequest = Config.freeEvent (t.draws - 1)
      ∧ (i.dir = .read → ∃ h : i.rt.val < 15, t.x[i.rt.val]'h =
          readValue s.impl i.index s.unknown[i.index] s.dbgbcr[i.index] (Config.freeWord s.draws)))
    ∧ (∀ l rest, s.inputs = .coldReset l :: rest →
      t.draws = s.draws + 16 ∧ ∀ n : Fin 16, t.dbgbcr[n] = Config.freeWord (s.draws + n.val))
    ∧ (∀ i rest, s.inputs = i :: rest → (∀ l, i ≠ .coldReset l) →
      t.draws = s.draws ∧ t.eventRequest = s.eventRequest)

/-- 10_state.md R9 to R12, R30, R36 (93 U4, U5, U9): what the rules call ignored, or without other effect, has no
effect on any breakpoint's event: the RES0 bits; every field but E where E = 0 (log 27); LBN of every type but the
linked address types (0b0101 among them by 92 D12, log 18); BAS of a Context matching breakpoint. Two values that
differ there only, written to DBGBCR<m>, leave the same breakpoints able to fire and the same event pending. -/
def Obligations.IgnoredBitsHaveNoEffectOnEvents : Prop :=
  ∀ (s : State) (m : Fin 16) (v w : Word),
    let f := unpack v
    let g := unpack w
    g.e = f.e →
    (f.e = 1#1 → g.bt = f.bt ∧ g.ssc = f.ssc ∧ g.hmc = f.hmc ∧ g.pmc = f.pmc
      ∧ (btClass f.bt ≠ .contextMatching → g.bas = f.bas)
      ∧ (f.bt = 0b0001#4 ∨ f.bt = 0b0101#4 → g.lbn = f.lbn)) →
    (∀ n, mayFire (writeDbgbcr m w s) n = mayFire (writeDbgbcr m v s) n)
    ∧ pendingEvent (writeDbgbcr m w s) = pendingEvent (writeDbgbcr m v s)

/-- 10_state.md R35: a mismatch breakpoint with BAS = 0b0000 is "match anywhere": its comparison exempts no
instruction address, and for the unlinked type 0b0100 its type condition holds in every situation. -/
def Obligations.MatchAnywhereExemptsNoAddress : Prop :=
  ∀ (s : State) (n : Fin 16), (unpack s.dbgbcr[n]).bas = 0b0000#4 →
    ((unpack s.dbgbcr[n]).bt = 0b0100#4 ∨ (unpack s.dbgbcr[n]).bt = 0b0101#4 →
      ∀ place : Situation, ∀ c ∈ comparisons s n, comparisonHolds place c = true)
    ∧ ((unpack s.dbgbcr[n]).bt = 0b0100#4 →
      ∀ (pc : Nat) (iset : InstrSet) (el : EL) (ctx : Context),
        typeCond { s with pc := pc, iset := iset, el := el, ctx := ctx } n = true)

/-- 10_state.md R40, R41 and 60_exceptions.md R85 (log 15, log 20): a change of the context record from outside
replaces the record but for HaveEL3 and nothing else, and a change of the companion registers those and nothing
else. -/
def Obligations.ContextAndCompanionChangeAloneAsGiven : Prop :=
  ∀ (s : State) (rest : List Input),
    (∀ c : Context, s.inputs = .contextChange c :: rest →
      step s = .next { s with ctx := { c with haveEL3 := s.ctx.haveEL3 }, inputs := rest })
    ∧ (∀ c : Companion, s.inputs = .companionChange c :: rest →
      step s = .next { s with companion := c, inputs := rest })

/-- 30_encoding.md R62: a step over program text that decodes to no access to DBGBCR<n> is refused, by the name of
what the decoder found; text that ends before the instruction does is the fault of log 1. -/
def Obligations.StepRefusesOtherEncodings : Prop :=
  ∀ (s : State) (why : Reject), s.inputs = [] → pendingEvent s = none →
    decode s.iset (Memory.readBytes s.mem s.pc 4) = .error why →
    (why ≠ .truncated → step s = .refused (.otherEncoding why))
    ∧ (why = .truncated →
      step s = .fault (.noProgramText (s.pc + (Memory.readBytes s.mem s.pc 4).length)))

/-- 20_memory.md R52, 92 D17: the launch premise NoOtherWriter holds over the whole run: every step keeps it, and
where it holds no step takes a write through another view, whichever instruction it follows (log 15). -/
def Obligations.NoOtherWriterHoldsThroughTheRun : Prop :=
  ∀ s t : State, NoOtherWriter s = true → step s = .next t →
    NoOtherWriter t = true ∧ ∀ v n w rest, s.inputs ≠ .viewWrite v n w :: rest
end

