-- ==== Sys2Proof/Laws/Encoding.lean ====
section
/-! SUPPORT. The fields of the word of an MRC or MCR (30_encoding.md R58, R59), and the bytes a word lies in. -/

namespace Sys2Proof

section
variable (cond : BitVec 4) (l : BitVec 1) (c : Coordinates) (t : Fin 16)

theorem moveWord_cond : (moveWord cond l c t).extractLsb' 28 4 = cond := by
  simp (disch := omega) only [moveWord, BitVec.extractLsb'_append_eq_of_le, Nat.reduceSub,
    BitVec.extractLsb'_eq_self]

theorem moveWord_opcode : (moveWord cond l c t).extractLsb' 24 4 = 0b1110#4 := by
  simp (disch := omega) only [moveWord, BitVec.extractLsb'_append_eq_of_le,
    BitVec.extractLsb'_append_eq_of_add_le, Nat.reduceSub, BitVec.extractLsb'_eq_self]

theorem moveWord_dir : (moveWord cond l c t).extractLsb' 20 1 = l := by
  simp (disch := omega) only [moveWord, BitVec.extractLsb'_append_eq_of_le,
    BitVec.extractLsb'_append_eq_of_add_le, Nat.reduceSub, BitVec.extractLsb'_eq_self]

theorem moveWord_move : (moveWord cond l c t).extractLsb' 4 1 = 1#1 := by
  simp (disch := omega) only [moveWord, BitVec.extractLsb'_append_eq_of_le,
    BitVec.extractLsb'_append_eq_of_add_le, Nat.reduceSub, BitVec.extractLsb'_eq_self]

theorem moveWord_rt : rtOf (moveWord cond l c t) = t := by
  simp (disch := omega) only [rtOf, moveWord, BitVec.extractLsb'_append_eq_of_le,
    BitVec.extractLsb'_append_eq_of_add_le, Nat.reduceSub, BitVec.extractLsb'_eq_self]

theorem moveWord_crm : (moveWord cond l c t).extractLsb' 0 4 = c.crm := by
  simp (disch := omega) only [moveWord, BitVec.extractLsb'_append_eq_of_add_le, BitVec.extractLsb'_eq_self]

theorem moveWord_coordinates : coordinatesOf (moveWord cond l c t) = c := by
  obtain ⟨a, b, d, e, f⟩ := c
  simp (disch := omega) only [coordinatesOf, moveWord, BitVec.extractLsb'_append_eq_of_le,
    BitVec.extractLsb'_append_eq_of_add_le, Nat.reduceSub, BitVec.extractLsb'_eq_self]

end

theorem layoutBytes_length (set : InstrSet) (w : Word) : (layoutBytes set w).length = 4 := by
  cases set <;> rfl

/-- The four bytes of a word, put together again. -/
theorem word_of_bytes (w : Word) :
    w.extractLsb' 24 8 ++ w.extractLsb' 16 8 ++ w.extractLsb' 8 8 ++ w.extractLsb' 0 8 = w := by
  refine BitVec.eq_of_getLsbD_eq fun i hi => ?_
  simp only [BitVec.getLsbD_append, BitVec.getLsbD_extractLsb']
  interval_cases i <;> simp

/-- The decoder reads the laid-out A32 word. -/
theorem decode_layout_a32 (w : Word) (rest : List Byte) :
    decode .a32 (layoutBytes .a32 w ++ rest) = (decodeWord .a32 w).map fun i => (i, rest) := by
  simp only [layoutBytes, List.cons_append, List.nil_append, decode, word_of_bytes]

/-- The decoder reads the laid-out T32 word, if its first halfword marks a 32-bit instruction (R59). -/
theorem decode_layout_t32 {w : Word} (h : w.extractLsb' 27 5 = 0b11101#5) (rest : List Byte) :
    decode .t32 (layoutBytes .t32 w ++ rest) = (decodeWord .t32 w).map fun i => (i, rest) := by
  have hh : (w.extractLsb' 24 8 ++ w.extractLsb' 16 8).extractLsb' 11 5 = 0b11101#5 := by
    rw [← h]
    refine BitVec.eq_of_getLsbD_eq fun i hi => ?_
    simp only [BitVec.getLsbD_append, BitVec.getLsbD_extractLsb']
    interval_cases i <;> simp
  simp only [layoutBytes, List.cons_append, List.nil_append, decode, hh, if_pos]
  have hw : w.extractLsb' 24 8 ++ w.extractLsb' 16 8 ++ w.extractLsb' 8 8 ++ w.extractLsb' 0 8 = w :=
    word_of_bytes w
  exact congrArg (fun v => (decodeWord .t32 v).map fun i => (i, rest)) hw

end Sys2Proof
end

