-- ==== Sys2Proof/Laws/Fields.lean ====
section
/-! SUPPORT. Packing and unpacking the fields of DBGBCR<n> (10_state.md R8). -/

namespace Sys2Proof.Machine

/-- The ten ranges cover the register: nothing is lost by unpacking. -/
@[simp] theorem pack_unpack (v : Word) : pack (unpack v) = v := by
  refine BitVec.eq_of_getLsbD_eq fun i hi => ?_
  simp only [pack, unpack, BitVec.getLsbD_append, BitVec.getLsbD_extractLsb']
  interval_cases i <;> simp

/-- The ten ranges are disjoint: each field is read back as packed. -/
@[simp] theorem unpack_pack (f : Fields) : unpack (pack f) = f := by
  obtain ⟨a, b, c, d, e, g, h, i, j, k⟩ := f
  simp only [unpack, pack, Fields.mk.injEq]
  refine ⟨?_, ?_, ?_, ?_, ?_, ?_, ?_, ?_, ?_, ?_⟩ <;>
    simp (disch := omega) only [BitVec.extractLsb'_append_eq_of_le, BitVec.extractLsb'_append_eq_of_add_le,
      Nat.sub_self, BitVec.extractLsb'_eq_self, Nat.reduceSub]

/-- Two values with the same fields are the same value. -/
theorem unpack_injective {v w : Word} (h : unpack v = unpack w) : v = w := by
  rw [← pack_unpack v, ← pack_unpack w, h]

/-- The fields of a masked value are the masked fields. -/
theorem unpack_and (v m : Word) :
    unpack (v &&& m) =
      { res31 := (unpack v).res31 &&& (unpack m).res31, bt := (unpack v).bt &&& (unpack m).bt,
        lbn := (unpack v).lbn &&& (unpack m).lbn, ssc := (unpack v).ssc &&& (unpack m).ssc,
        hmc := (unpack v).hmc &&& (unpack m).hmc, res12 := (unpack v).res12 &&& (unpack m).res12,
        bas := (unpack v).bas &&& (unpack m).bas, res4 := (unpack v).res4 &&& (unpack m).res4,
        pmc := (unpack v).pmc &&& (unpack m).pmc, e := (unpack v).e &&& (unpack m).e } := by
  simp [unpack, BitVec.extractLsb'_and]

/-- The fields of a read of a known value. -/
theorem unpack_readValue_known (p : Implementation) (n : Fin 16) (v d : Word) :
    unpack (readValue p n false v d) = readFields p n (unpack v) (unpack d) := by
  simp [readValue]

/-- The fields of a read of a register not written since a Cold reset. -/
theorem unpack_readValue_unknown (p : Implementation) (n : Fin 16) (v d : Word) :
    unpack (readValue p n true v d) = unknownFields p (unpack d) := by
  simp [readValue]

/-- E is read back as stored, whatever the other fields hold. -/
theorem enabled_readValue_known (p : Implementation) (n : Fin 16) (v d : Word) :
    enabled (readValue p n false v d) = enabled v := by
  simp only [enabled, unpack_readValue_known, readFields]

/-- Each bit `res0` reads is 0 or the stored bit. -/
theorem res0_cases {w : Nat} (b d : BitVec w) (i : Nat) :
    (res0 none b d).getLsbD i = false ∨ (res0 none b d).getLsbD i = b.getLsbD i := by
  simp only [res0, BitVec.getLsbD_and]
  cases d.getLsbD i <;> simp

/-- Each bit `res1` reads is 1 or the stored bit. -/
theorem res1_cases {w : Nat} (b d : BitVec w) (i : Nat) :
    (res1 b d).getLsbD i = true ∨ (res1 b d).getLsbD i = b.getLsbD i := by
  simp only [res1, BitVec.getLsbD_or]
  cases d.getLsbD i <;> simp

end Sys2Proof.Machine
end

