-- ==== Sys2Proof/Laws/Memory.lean ====
section
/-! SUPPORT. The program text: a read after a write, and the canonical form kept by every write. -/

namespace Sys2Proof.Machine

theorem Memory.above_write {k a : Nat} {b : Byte} {m : List Host.Cell} (hk : k < a)
    (h : Memory.above k m = true) : Memory.above k (Memory.write m a b) = true := by
  induction m with
  | nil => simpa [Memory.write, Memory.above] using hk
  | cons c rest ih =>
    obtain ⟨ca, cb⟩ := c
    simp only [Memory.above, List.all_cons, Bool.and_eq_true, decide_eq_true_eq] at h ih ⊢
    simp only [Memory.write]
    split
    · simpa using ⟨hk, h.1, by simpa using h.2⟩
    · split
      · simpa using ⟨hk, by simpa using h.2⟩
      · simpa using ⟨h.1, by simpa using ih h.2⟩

/-- A write keeps the canonical form. -/
theorem Memory.wf_write {m : List Host.Cell} (a : Nat) (b : Byte) (h : Memory.wf m = true) :
    Memory.wf (Memory.write m a b) = true := by
  induction m with
  | nil => simp [Memory.write, Memory.wf, Memory.above]
  | cons c rest ih =>
    obtain ⟨ca, cb⟩ := c
    simp only [Memory.wf, Bool.and_eq_true] at h
    simp only [Memory.write]
    split
    · next hlt =>
      have hall : Memory.above a rest = true := by
        simp only [Memory.above, List.all_eq_true, decide_eq_true_eq] at h ⊢
        intro x hx
        have := h.1 x hx
        omega
      simp only [Memory.wf, Bool.and_eq_true]
      exact ⟨by simpa [Memory.above] using ⟨hlt, by simpa [Memory.above] using hall⟩, h⟩
    · split
      · next he =>
        subst he
        simpa [Memory.wf] using h
      · simp only [Memory.wf, Bool.and_eq_true]
        exact ⟨Memory.above_write (by omega) h.1, ih h.2⟩

/-- Placing bytes keeps the canonical form. -/
theorem Memory.wf_writeBytes {bytes : List Byte} {m : List Host.Cell} (a : Nat) (h : Memory.wf m = true) :
    Memory.wf (Memory.writeBytes m a bytes) = true := by
  induction bytes generalizing m a with
  | nil => exact h
  | cons b rest ih => exact ih (a + 1) (Memory.wf_write a b h)

/-- A read at the address written gives the byte written. -/
theorem Memory.read_write_same (m : List Host.Cell) (a : Nat) (b : Byte) :
    Memory.read (Memory.write m a b) a = some b := by
  induction m with
  | nil => simp [Memory.write, Memory.read]
  | cons c rest ih =>
    obtain ⟨ca, cb⟩ := c
    simp only [Memory.write]
    split
    · simp [Memory.read]
    · split
      · simp [Memory.read]
      · next h1 h2 => simpa [Memory.read, Ne.symm h2] using ih

/-- A write leaves every other address alone. -/
theorem Memory.read_write_other {a a' : Nat} (m : List Host.Cell) (b : Byte) (h : a' ≠ a) :
    Memory.read (Memory.write m a b) a' = Memory.read m a' := by
  induction m with
  | nil => simp [Memory.write, Memory.read, Ne.symm h]
  | cons c rest ih =>
    obtain ⟨ca, cb⟩ := c
    simp only [Memory.write]
    split
    · simp [Memory.read, Ne.symm h]
    · split
      · next he => subst he; simp [Memory.read, Ne.symm h]
      · simp only [Memory.read, ih]

/-- Placing bytes leaves every lower address alone. -/
theorem Memory.read_writeBytes_lower {bytes : List Byte} {m : List Host.Cell} {a a' : Nat} (h : a' < a) :
    Memory.read (Memory.writeBytes m a bytes) a' = Memory.read m a' := by
  induction bytes generalizing m a with
  | nil => rfl
  | cons b rest ih =>
    rw [Memory.writeBytes, ih (by omega), Memory.read_write_other m b (by omega)]

/-- Bytes placed are read back. -/
theorem Memory.readBytes_writeBytes (bytes : List Byte) (m : List Host.Cell) (a : Nat) :
    Memory.readBytes (Memory.writeBytes m a bytes) a bytes.length = bytes := by
  induction bytes generalizing m a with
  | nil => rfl
  | cons b rest ih =>
    have hb : Memory.read (Memory.writeBytes (Memory.write m a b) (a + 1) rest) a = some b := by
      rw [Memory.read_writeBytes_lower (by omega), Memory.read_write_same]
    simp only [Memory.writeBytes, List.length_cons, Memory.readBytes, hb, ih]

end Sys2Proof.Machine
end

