-- ==== Sys2Proof/Laws/State.lean ====
section
/-! SUPPORT. What each update of the state does to each field, so that no proof unfolds a record update. -/

namespace Sys2Proof.Machine

/-! ### setX -/

@[simp] theorem setX_impl (t : Fin 15) (v : Word) (s : State) : (setX t v s).impl = s.impl := rfl
@[simp] theorem setX_dbgbcr (t : Fin 15) (v : Word) (s : State) : (setX t v s).dbgbcr = s.dbgbcr := rfl
@[simp] theorem setX_unknown (t : Fin 15) (v : Word) (s : State) : (setX t v s).unknown = s.unknown := rfl
@[simp] theorem setX_everEnabled (t : Fin 15) (v : Word) (s : State) :
    (setX t v s).everEnabled = s.everEnabled := rfl
@[simp] theorem setX_companion (t : Fin 15) (v : Word) (s : State) :
    (setX t v s).companion = s.companion := rfl
@[simp] theorem setX_ctx (t : Fin 15) (v : Word) (s : State) : (setX t v s).ctx = s.ctx := rfl
@[simp] theorem setX_x (t : Fin 15) (v : Word) (s : State) : (setX t v s).x = s.x.set t v := rfl
@[simp] theorem setX_el (t : Fin 15) (v : Word) (s : State) : (setX t v s).el = s.el := rfl
@[simp] theorem setX_pc (t : Fin 15) (v : Word) (s : State) : (setX t v s).pc = s.pc := rfl
@[simp] theorem setX_mem (t : Fin 15) (v : Word) (s : State) : (setX t v s).mem = s.mem := rfl
@[simp] theorem setX_iset (t : Fin 15) (v : Word) (s : State) : (setX t v s).iset = s.iset := rfl
@[simp] theorem setX_inputs (t : Fin 15) (v : Word) (s : State) : (setX t v s).inputs = s.inputs := rfl
@[simp] theorem setX_laterInputs (t : Fin 15) (v : Word) (s : State) :
    (setX t v s).laterInputs = s.laterInputs := rfl
@[simp] theorem setX_draws (t : Fin 15) (v : Word) (s : State) : (setX t v s).draws = s.draws := rfl
@[simp] theorem setX_eventRequest (t : Fin 15) (v : Word) (s : State) :
    (setX t v s).eventRequest = s.eventRequest := rfl

/-! ### advancePc -/

@[simp] theorem advancePc_impl (s : State) : (advancePc s).impl = s.impl := rfl
@[simp] theorem advancePc_dbgbcr (s : State) : (advancePc s).dbgbcr = s.dbgbcr := rfl
@[simp] theorem advancePc_unknown (s : State) : (advancePc s).unknown = s.unknown := rfl
@[simp] theorem advancePc_everEnabled (s : State) : (advancePc s).everEnabled = s.everEnabled := rfl
@[simp] theorem advancePc_companion (s : State) : (advancePc s).companion = s.companion := rfl
@[simp] theorem advancePc_ctx (s : State) : (advancePc s).ctx = s.ctx := rfl
@[simp] theorem advancePc_x (s : State) : (advancePc s).x = s.x := rfl
@[simp] theorem advancePc_el (s : State) : (advancePc s).el = s.el := rfl
@[simp] theorem advancePc_pc (s : State) : (advancePc s).pc = s.pc + 4 := rfl
@[simp] theorem advancePc_mem (s : State) : (advancePc s).mem = s.mem := rfl
@[simp] theorem advancePc_iset (s : State) : (advancePc s).iset = s.iset := rfl
@[simp] theorem advancePc_inputs (s : State) : (advancePc s).inputs = s.inputs := rfl
@[simp] theorem advancePc_laterInputs (s : State) : (advancePc s).laterInputs = s.laterInputs := rfl
@[simp] theorem advancePc_draws (s : State) : (advancePc s).draws = s.draws := rfl
@[simp] theorem advancePc_eventRequest (s : State) : (advancePc s).eventRequest = s.eventRequest := rfl

/-! ### useDraw -/

@[simp] theorem useDraw_impl (s : State) : (useDraw s).impl = s.impl := rfl
@[simp] theorem useDraw_dbgbcr (s : State) : (useDraw s).dbgbcr = s.dbgbcr := rfl
@[simp] theorem useDraw_unknown (s : State) : (useDraw s).unknown = s.unknown := rfl
@[simp] theorem useDraw_everEnabled (s : State) : (useDraw s).everEnabled = s.everEnabled := rfl
@[simp] theorem useDraw_companion (s : State) : (useDraw s).companion = s.companion := rfl
@[simp] theorem useDraw_ctx (s : State) : (useDraw s).ctx = s.ctx := rfl
@[simp] theorem useDraw_x (s : State) : (useDraw s).x = s.x := rfl
@[simp] theorem useDraw_el (s : State) : (useDraw s).el = s.el := rfl
@[simp] theorem useDraw_pc (s : State) : (useDraw s).pc = s.pc := rfl
@[simp] theorem useDraw_mem (s : State) : (useDraw s).mem = s.mem := rfl
@[simp] theorem useDraw_iset (s : State) : (useDraw s).iset = s.iset := rfl
@[simp] theorem useDraw_inputs (s : State) : (useDraw s).inputs = s.inputs := rfl
@[simp] theorem useDraw_laterInputs (s : State) : (useDraw s).laterInputs = s.laterInputs := rfl
@[simp] theorem useDraw_draws (s : State) : (useDraw s).draws = s.draws + 1 := rfl
@[simp] theorem useDraw_eventRequest (s : State) : (useDraw s).eventRequest = s.eventRequest := rfl

/-! ### writeDbgbcr -/

@[simp] theorem writeDbgbcr_impl (n : Fin 16) (w : Word) (s : State) :
    (writeDbgbcr n w s).impl = s.impl := rfl
@[simp] theorem writeDbgbcr_dbgbcr (n : Fin 16) (w : Word) (s : State) :
    (writeDbgbcr n w s).dbgbcr = s.dbgbcr.set n w := rfl
@[simp] theorem writeDbgbcr_unknown (n : Fin 16) (w : Word) (s : State) :
    (writeDbgbcr n w s).unknown = s.unknown.set n false := rfl
@[simp] theorem writeDbgbcr_everEnabled (n : Fin 16) (w : Word) (s : State) :
    (writeDbgbcr n w s).everEnabled = s.everEnabled.set n (s.everEnabled[n] || enabled w) := rfl
@[simp] theorem writeDbgbcr_companion (n : Fin 16) (w : Word) (s : State) :
    (writeDbgbcr n w s).companion = s.companion := rfl
@[simp] theorem writeDbgbcr_ctx (n : Fin 16) (w : Word) (s : State) : (writeDbgbcr n w s).ctx = s.ctx := rfl
@[simp] theorem writeDbgbcr_x (n : Fin 16) (w : Word) (s : State) : (writeDbgbcr n w s).x = s.x := rfl
@[simp] theorem writeDbgbcr_el (n : Fin 16) (w : Word) (s : State) : (writeDbgbcr n w s).el = s.el := rfl
@[simp] theorem writeDbgbcr_pc (n : Fin 16) (w : Word) (s : State) : (writeDbgbcr n w s).pc = s.pc := rfl
@[simp] theorem writeDbgbcr_mem (n : Fin 16) (w : Word) (s : State) : (writeDbgbcr n w s).mem = s.mem := rfl
@[simp] theorem writeDbgbcr_iset (n : Fin 16) (w : Word) (s : State) :
    (writeDbgbcr n w s).iset = s.iset := rfl
@[simp] theorem writeDbgbcr_inputs (n : Fin 16) (w : Word) (s : State) :
    (writeDbgbcr n w s).inputs = s.inputs := rfl
@[simp] theorem writeDbgbcr_laterInputs (n : Fin 16) (w : Word) (s : State) :
    (writeDbgbcr n w s).laterInputs = s.laterInputs := rfl
@[simp] theorem writeDbgbcr_draws (n : Fin 16) (w : Word) (s : State) :
    (writeDbgbcr n w s).draws = s.draws := rfl
@[simp] theorem writeDbgbcr_eventRequest (n : Fin 16) (w : Word) (s : State) :
    (writeDbgbcr n w s).eventRequest = s.eventRequest := rfl

/-! ### chooseEvent -/

@[simp] theorem chooseEvent_impl (s : State) : (chooseEvent s).impl = s.impl := rfl
@[simp] theorem chooseEvent_dbgbcr (s : State) : (chooseEvent s).dbgbcr = s.dbgbcr := rfl
@[simp] theorem chooseEvent_unknown (s : State) : (chooseEvent s).unknown = s.unknown := rfl
@[simp] theorem chooseEvent_everEnabled (s : State) : (chooseEvent s).everEnabled = s.everEnabled := rfl
@[simp] theorem chooseEvent_companion (s : State) : (chooseEvent s).companion = s.companion := rfl
@[simp] theorem chooseEvent_ctx (s : State) : (chooseEvent s).ctx = s.ctx := rfl
@[simp] theorem chooseEvent_x (s : State) : (chooseEvent s).x = s.x := rfl
@[simp] theorem chooseEvent_el (s : State) : (chooseEvent s).el = s.el := rfl
@[simp] theorem chooseEvent_pc (s : State) : (chooseEvent s).pc = s.pc := rfl
@[simp] theorem chooseEvent_mem (s : State) : (chooseEvent s).mem = s.mem := rfl
@[simp] theorem chooseEvent_iset (s : State) : (chooseEvent s).iset = s.iset := rfl
@[simp] theorem chooseEvent_inputs (s : State) : (chooseEvent s).inputs = s.inputs := rfl
@[simp] theorem chooseEvent_laterInputs (s : State) : (chooseEvent s).laterInputs = s.laterInputs := rfl
@[simp] theorem chooseEvent_draws (s : State) : (chooseEvent s).draws = s.draws + 1 := rfl
@[simp] theorem chooseEvent_eventRequest (s : State) :
    (chooseEvent s).eventRequest = Config.freeEvent s.draws := rfl

/-! ### arrive -/

@[simp] theorem arrive_impl (s : State) : (arrive s).impl = s.impl := rfl
@[simp] theorem arrive_dbgbcr (s : State) : (arrive s).dbgbcr = s.dbgbcr := rfl
@[simp] theorem arrive_unknown (s : State) : (arrive s).unknown = s.unknown := rfl
@[simp] theorem arrive_everEnabled (s : State) : (arrive s).everEnabled = s.everEnabled := rfl
@[simp] theorem arrive_companion (s : State) : (arrive s).companion = s.companion := rfl
@[simp] theorem arrive_ctx (s : State) : (arrive s).ctx = s.ctx := rfl
@[simp] theorem arrive_x (s : State) : (arrive s).x = s.x := rfl
@[simp] theorem arrive_el (s : State) : (arrive s).el = s.el := rfl
@[simp] theorem arrive_pc (s : State) : (arrive s).pc = s.pc := rfl
@[simp] theorem arrive_mem (s : State) : (arrive s).mem = s.mem := rfl
@[simp] theorem arrive_iset (s : State) : (arrive s).iset = s.iset := rfl
@[simp] theorem arrive_inputs (s : State) : (arrive s).inputs = s.laterInputs.headD [] := rfl
@[simp] theorem arrive_laterInputs (s : State) : (arrive s).laterInputs = s.laterInputs.tail := rfl
@[simp] theorem arrive_draws (s : State) : (arrive s).draws = s.draws := rfl
@[simp] theorem arrive_eventRequest (s : State) : (arrive s).eventRequest = s.eventRequest := rfl

/-! ### afterInstruction -/

@[simp] theorem afterInstruction_impl (s : State) : (afterInstruction s).impl = s.impl := rfl
@[simp] theorem afterInstruction_dbgbcr (s : State) : (afterInstruction s).dbgbcr = s.dbgbcr := rfl
@[simp] theorem afterInstruction_unknown (s : State) : (afterInstruction s).unknown = s.unknown := rfl
@[simp] theorem afterInstruction_everEnabled (s : State) :
    (afterInstruction s).everEnabled = s.everEnabled := rfl
@[simp] theorem afterInstruction_companion (s : State) : (afterInstruction s).companion = s.companion := rfl
@[simp] theorem afterInstruction_ctx (s : State) : (afterInstruction s).ctx = s.ctx := rfl
@[simp] theorem afterInstruction_x (s : State) : (afterInstruction s).x = s.x := rfl
@[simp] theorem afterInstruction_el (s : State) : (afterInstruction s).el = s.el := rfl
@[simp] theorem afterInstruction_pc (s : State) : (afterInstruction s).pc = s.pc := rfl
@[simp] theorem afterInstruction_mem (s : State) : (afterInstruction s).mem = s.mem := rfl
@[simp] theorem afterInstruction_iset (s : State) : (afterInstruction s).iset = s.iset := rfl
@[simp] theorem afterInstruction_inputs (s : State) :
    (afterInstruction s).inputs = s.laterInputs.headD [] := rfl
@[simp] theorem afterInstruction_laterInputs (s : State) :
    (afterInstruction s).laterInputs = s.laterInputs.tail := rfl
@[simp] theorem afterInstruction_draws (s : State) : (afterInstruction s).draws = s.draws + 1 := rfl
@[simp] theorem afterInstruction_eventRequest (s : State) :
    (afterInstruction s).eventRequest = Config.freeEvent s.draws := rfl

/-! ### relaunch -/

@[simp] theorem relaunch_impl (l : Launch) (s : State) : (relaunch l s).impl = s.impl := rfl
@[simp] theorem relaunch_dbgbcr (l : Launch) (s : State) : (relaunch l s).dbgbcr = s.dbgbcr := rfl
@[simp] theorem relaunch_unknown (l : Launch) (s : State) : (relaunch l s).unknown = s.unknown := rfl
@[simp] theorem relaunch_everEnabled (l : Launch) (s : State) :
    (relaunch l s).everEnabled = s.everEnabled := rfl
@[simp] theorem relaunch_companion (l : Launch) (s : State) : (relaunch l s).companion = l.companion := rfl
@[simp] theorem relaunch_ctx (l : Launch) (s : State) : (relaunch l s).ctx = keepConfig s.ctx l.ctx := rfl
@[simp] theorem relaunch_x (l : Launch) (s : State) : (relaunch l s).x = l.x := rfl
@[simp] theorem relaunch_el (l : Launch) (s : State) : (relaunch l s).el = l.el := rfl
@[simp] theorem relaunch_pc (l : Launch) (s : State) : (relaunch l s).pc = l.pc := rfl
@[simp] theorem relaunch_mem (l : Launch) (s : State) : (relaunch l s).mem = s.mem := rfl
@[simp] theorem relaunch_iset (l : Launch) (s : State) : (relaunch l s).iset = l.iset := rfl
@[simp] theorem relaunch_inputs (l : Launch) (s : State) : (relaunch l s).inputs = s.inputs := rfl
@[simp] theorem relaunch_laterInputs (l : Launch) (s : State) :
    (relaunch l s).laterInputs = s.laterInputs := rfl
@[simp] theorem relaunch_draws (l : Launch) (s : State) : (relaunch l s).draws = s.draws := rfl
@[simp] theorem relaunch_eventRequest (l : Launch) (s : State) :
    (relaunch l s).eventRequest = s.eventRequest := rfl

/-! ### coldReset -/

@[simp] theorem coldReset_impl (s : State) : (coldReset s).impl = s.impl := rfl
@[simp] theorem coldReset_dbgbcr (s : State) :
    (coldReset s).dbgbcr = Vector.ofFn fun n => Config.freeWord (s.draws + n.val) := rfl
@[simp] theorem coldReset_unknown (s : State) : (coldReset s).unknown = Vector.replicate 16 true := rfl
@[simp] theorem coldReset_everEnabled (s : State) :
    (coldReset s).everEnabled = Vector.replicate 16 true := rfl
@[simp] theorem coldReset_companion (s : State) : (coldReset s).companion = s.companion := rfl
@[simp] theorem coldReset_ctx (s : State) : (coldReset s).ctx = s.ctx := rfl
@[simp] theorem coldReset_x (s : State) : (coldReset s).x = s.x := rfl
@[simp] theorem coldReset_el (s : State) : (coldReset s).el = s.el := rfl
@[simp] theorem coldReset_pc (s : State) : (coldReset s).pc = s.pc := rfl
@[simp] theorem coldReset_mem (s : State) : (coldReset s).mem = s.mem := rfl
@[simp] theorem coldReset_iset (s : State) : (coldReset s).iset = s.iset := rfl
@[simp] theorem coldReset_inputs (s : State) : (coldReset s).inputs = s.inputs := rfl
@[simp] theorem coldReset_laterInputs (s : State) : (coldReset s).laterInputs = s.laterInputs := rfl
@[simp] theorem coldReset_draws (s : State) : (coldReset s).draws = s.draws + 16 := rfl
@[simp] theorem coldReset_eventRequest (s : State) : (coldReset s).eventRequest = s.eventRequest := rfl

/-! ### warmReset -/

@[simp] theorem warmReset_impl (s : State) : (warmReset s).impl = s.impl := rfl
@[simp] theorem warmReset_dbgbcr (s : State) : (warmReset s).dbgbcr = s.dbgbcr := rfl
@[simp] theorem warmReset_unknown (s : State) : (warmReset s).unknown = s.unknown := rfl
@[simp] theorem warmReset_everEnabled (s : State) : (warmReset s).everEnabled = s.everEnabled := rfl
@[simp] theorem warmReset_companion (s : State) : (warmReset s).companion = s.companion := rfl
@[simp] theorem warmReset_ctx (s : State) : (warmReset s).ctx = s.ctx := rfl
@[simp] theorem warmReset_x (s : State) : (warmReset s).x = s.x := rfl
@[simp] theorem warmReset_el (s : State) : (warmReset s).el = s.el := rfl
@[simp] theorem warmReset_pc (s : State) : (warmReset s).pc = s.pc := rfl
@[simp] theorem warmReset_mem (s : State) : (warmReset s).mem = s.mem := rfl
@[simp] theorem warmReset_iset (s : State) : (warmReset s).iset = s.iset := rfl
@[simp] theorem warmReset_inputs (s : State) : (warmReset s).inputs = s.inputs := rfl
@[simp] theorem warmReset_laterInputs (s : State) : (warmReset s).laterInputs = s.laterInputs := rfl
@[simp] theorem warmReset_draws (s : State) : (warmReset s).draws = s.draws := rfl
@[simp] theorem warmReset_eventRequest (s : State) : (warmReset s).eventRequest = s.eventRequest := rfl

/-! ### placeWord -/

@[simp] theorem placeWord_impl (s : State) (nbits w : Nat) : (placeWord s nbits w).impl = s.impl := rfl
@[simp] theorem placeWord_dbgbcr (s : State) (nbits w : Nat) : (placeWord s nbits w).dbgbcr = s.dbgbcr := rfl
@[simp] theorem placeWord_unknown (s : State) (nbits w : Nat) :
    (placeWord s nbits w).unknown = s.unknown := rfl
@[simp] theorem placeWord_everEnabled (s : State) (nbits w : Nat) :
    (placeWord s nbits w).everEnabled = s.everEnabled := rfl
@[simp] theorem placeWord_companion (s : State) (nbits w : Nat) :
    (placeWord s nbits w).companion = s.companion := rfl
@[simp] theorem placeWord_ctx (s : State) (nbits w : Nat) : (placeWord s nbits w).ctx = s.ctx := rfl
@[simp] theorem placeWord_x (s : State) (nbits w : Nat) : (placeWord s nbits w).x = s.x := rfl
@[simp] theorem placeWord_el (s : State) (nbits w : Nat) : (placeWord s nbits w).el = s.el := rfl
@[simp] theorem placeWord_pc (s : State) (nbits w : Nat) : (placeWord s nbits w).pc = s.pc := rfl
@[simp] theorem placeWord_mem (s : State) (nbits w : Nat) :
    (placeWord s nbits w).mem = Memory.writeBytes s.mem s.pc (layoutBytes (tableSet (tableWord nbits w)) (tableWord nbits w)) := rfl
@[simp] theorem placeWord_iset (s : State) (nbits w : Nat) :
    (placeWord s nbits w).iset = tableSet (tableWord nbits w) := rfl
@[simp] theorem placeWord_inputs (s : State) (nbits w : Nat) : (placeWord s nbits w).inputs = [] := rfl
@[simp] theorem placeWord_laterInputs (s : State) (nbits w : Nat) :
    (placeWord s nbits w).laterInputs = s.laterInputs := rfl
@[simp] theorem placeWord_draws (s : State) (nbits w : Nat) : (placeWord s nbits w).draws = s.draws := rfl
@[simp] theorem placeWord_eventRequest (s : State) (nbits w : Nat) :
    (placeWord s nbits w).eventRequest = none := rfl

/-! ### The inputs -/

@[simp] theorem applyInput_coldReset (l : Launch) (s : State) :
    applyInput (.coldReset l) s = relaunch l (coldReset s) := rfl

@[simp] theorem applyInput_warmReset (l : Launch) (s : State) :
    applyInput (.warmReset l) s = relaunch l (warmReset s) := rfl

@[simp] theorem applyInput_viewWrite (view : View) (n : Fin 16) (w : Word) (s : State) :
    applyInput (.viewWrite view n w) s = if s.impl.implemented[n] then writeDbgbcr n w s else s := rfl

@[simp] theorem applyInput_contextChange (c : Context) (s : State) :
    applyInput (.contextChange c) s = { s with ctx := keepConfig s.ctx c } := rfl

@[simp] theorem applyInput_companionChange (c : Companion) (s : State) :
    applyInput (.companionChange c) s = { s with companion := c } := rfl

end Sys2Proof.Machine
end

