-- ==== Sys2Proof/Laws/Ops.lean ====
section
/-! SUPPORT. One lemma for each shared operation, saying what it can do; cited by the proofs, which then do
not unfold it. -/

namespace Sys2Proof.Machine

/-! ### The operand form and the outcomes -/

theorem withRt_eq {t : Fin 16} (h : t.val < 15) (k : Fin 15 → Host.Outcome State Fault Refusal) :
    withRt t k = k ⟨t.val, h⟩ := by
  simp [withRt, h]

theorem withRt_refused {t : Fin 16} (h : ¬ t.val < 15) (k : Fin 15 → Host.Outcome State Fault Refusal) :
    withRt t k = .refused .programCounterOperand := by
  simp [withRt, h]

theorem checked_eq_next {o : Option Fault} {k t : State} : checked o k = .next t ↔ o = none ∧ k = t := by
  cases o <;> simp [checked]

theorem checked_eq_fault {o : Option Fault} {k : State} {f : Fault} : checked o k = .fault f ↔ o = some f := by
  cases o <;> simp [checked]

theorem checked_ne_refused {o : Option Fault} {k : State} {r : Refusal} : checked o k ≠ .refused r := by
  cases o <;> simp [checked]

/-- A read or write proceeds exactly when AArch32 exists, the breakpoint is implemented and the check of the
Exception level finds nothing. -/
theorem access_eq_none {s : State} {n : Fin 16} :
    access s n = none ↔
      s.impl.haveAnyAArch32 = true ∧ s.impl.implemented[n] = true ∧ stateCheck s = none := by
  unfold access
  cases s.impl.haveAnyAArch32 <;> cases s.impl.implemented[n] <;> cases unimplFirst s <;>
    cases stateCheck s <;> simp
  all_goals split <;> simp

/-- The check depends on what it reads only. -/
theorem access_congr {s t : State} (n : Fin 16) (hi : t.impl = s.impl) (hc : t.ctx = s.ctx) (he : t.el = s.el)
    (hd : t.draws = s.draws) : access t n = access s n := by
  simp only [access, stateCheck, unimplFirst, hi, hc, he, hd]
  rfl

/-! ### The two accesses -/

/-- A read of DBGBCR<n> that answers a next state. -/
theorem readAccess_next {n : Fin 16} {t : Fin 15} {s s' : State} :
    readAccess n t s = .next s' ↔
      access s n = none ∧ advancePc (useDraw (setX t (readDbgbcr n s) s)) = s' :=
  checked_eq_next

/-- A write of DBGBCR<n> that answers a next state. -/
theorem writeAccess_next {n : Fin 16} {t : Fin 15} {s s' : State} :
    writeAccess n t s = .next s' ↔ access s n = none ∧ advancePc (writeDbgbcr n (getX t s) s) = s' :=
  checked_eq_next

/-- What an instruction of an admitted form does: the read or the write of its direction. -/
theorem exec_wellFormed {i : Instr} (s : State) (h : WellFormed i = true) :
    ∃ ht : i.rt.val < 15,
      exec i s = match i.dir with
        | .read => readAccess i.index ⟨i.rt.val, ht⟩ s
        | .write => writeAccess i.index ⟨i.rt.val, ht⟩ s := by
  cases i with
  | mrcA32 c t n =>
    simp only [WellFormed, Bool.and_eq_true, rtOk, decide_eq_true_eq] at h
    exact ⟨h.2, by simp [exec, execMrcA32, whenAlways, h.1, withRt_eq h.2, Instr.dir, Instr.index, Instr.rt]⟩
  | mcrA32 c t n =>
    simp only [WellFormed, Bool.and_eq_true, rtOk, decide_eq_true_eq] at h
    exact ⟨h.2, by simp [exec, execMcrA32, whenAlways, h.1, withRt_eq h.2, Instr.dir, Instr.index, Instr.rt]⟩
  | mrcT32 t n =>
    simp only [WellFormed, rtOk, decide_eq_true_eq] at h
    exact ⟨h, by simp [exec, execMrcT32, withRt_eq h, Instr.dir, Instr.index, Instr.rt]⟩
  | mcrT32 t n =>
    simp only [WellFormed, rtOk, decide_eq_true_eq] at h
    exact ⟨h, by simp [exec, execMcrT32, withRt_eq h, Instr.dir, Instr.index, Instr.rt]⟩

/-- An instruction of a form the spec does not admit is refused. -/
theorem exec_not_wellFormed {i : Instr} (s : State) (h : WellFormed i = false) : ∃ r, exec i s = .refused r := by
  cases i with
  | mrcA32 c t n =>
    by_cases hc : condOk c = true
    · have ht : ¬ t.val < 15 := by simpa [WellFormed, hc, rtOk] using h
      exact ⟨_, by simp [exec, execMrcA32, whenAlways, hc, withRt_refused ht]; rfl⟩
    · exact ⟨_, by simp [exec, execMrcA32, whenAlways, hc]; rfl⟩
  | mcrA32 c t n =>
    by_cases hc : condOk c = true
    · have ht : ¬ t.val < 15 := by simpa [WellFormed, hc, rtOk] using h
      exact ⟨_, by simp [exec, execMcrA32, whenAlways, hc, withRt_refused ht]; rfl⟩
    · exact ⟨_, by simp [exec, execMcrA32, whenAlways, hc]; rfl⟩
  | mrcT32 t n =>
    have ht : ¬ t.val < 15 := by simpa [WellFormed, rtOk] using h
    exact ⟨_, by simp [exec, execMrcT32, withRt_refused ht]; rfl⟩
  | mcrT32 t n =>
    have ht : ¬ t.val < 15 := by simpa [WellFormed, rtOk] using h
    exact ⟨_, by simp [exec, execMcrT32, withRt_refused ht]; rfl⟩

/-- Everything an instruction can do that answers a next state. -/
theorem exec_next {i : Instr} {s s' : State} (h : exec i s = .next s') :
    WellFormed i = true ∧ access s i.index = none ∧ ∃ ht : i.rt.val < 15,
      (i.dir = .read ∧ s' = advancePc (useDraw (setX ⟨i.rt.val, ht⟩ (readDbgbcr i.index s) s)))
      ∨ (i.dir = .write ∧ s' = advancePc (writeDbgbcr i.index (getX ⟨i.rt.val, ht⟩ s) s)) := by
  cases hw : WellFormed i with
  | false =>
    obtain ⟨r, hr⟩ := exec_not_wellFormed s hw
    rw [hr] at h
    cases h
  | true =>
    obtain ⟨ht, he⟩ := exec_wellFormed s hw
    rw [he] at h
    cases hd : i.dir with
    | read =>
      rw [hd] at h
      obtain ⟨ha, hs⟩ := readAccess_next.mp h
      exact ⟨rfl, ha, ht, .inl ⟨rfl, hs.symm⟩⟩
    | write =>
      rw [hd] at h
      obtain ⟨ha, hs⟩ := writeAccess_next.mp h
      exact ⟨rfl, ha, ht, .inr ⟨rfl, hs.symm⟩⟩

/-! ### The event and the step -/

/-- A breakpoint that may fire is armed. -/
theorem someArmed_of_mayFire {s : State} {n : Fin 16} (h : mayFire s n = true) : someArmed s = true := by
  simp only [mayFire, Bool.and_eq_true, Bool.or_eq_true] at h
  simp only [someArmed, List.any_eq_true, Bool.and_eq_true, Bool.or_eq_true]
  exact ⟨n, List.mem_finRange n, h.1, by tauto⟩

/-- The pending event is the one asked for, if its breakpoint may fire. -/
theorem pendingEvent_eq_some {s : State} {n : Fin 16} :
    pendingEvent s = some n ↔ s.eventRequest = some n ∧ mayFire s n = true := by
  constructor
  · intro h
    unfold pendingEvent at h
    split at h
    · split at h
      · cases h
      · split at h
        · next hr hm => cases h; exact ⟨hr, hm⟩
        · cases h
    · cases h
  · rintro ⟨hr, hm⟩
    simp [pendingEvent, someArmed_of_mayFire hm, hr, hm]

theorem onNext_eq_next {f : State → State} {o : Host.Outcome State Fault Refusal} {t : State} :
    onNext f o = .next t ↔ ∃ s, o = .next s ∧ f s = t := by
  cases o <;> simp [onNext]

theorem onNext_eq_fault {f : State → State} {o : Host.Outcome State Fault Refusal} {r : Fault} :
    onNext f o = .fault r ↔ o = .fault r := by
  cases o <;> simp [onNext]

theorem fetchFailed_ne_next {s t : State} {why : Reject} : fetchFailed s why ≠ .next t := by
  cases why <;> simp [fetchFailed]

/-- A write of DBGBCR<m> leaves what another breakpoint compares. -/
theorem comparisons_writeDbgbcr_ne {m n : Fin 16} (w : Word) (s : State) (h : m ≠ n) :
    comparisons (writeDbgbcr m w s) n = comparisons s n := by
  have hv : m.val ≠ n.val := fun e => h (Fin.ext e)
  simp [comparisons, contextTarget, Vector.getElem_set_ne, hv]

/-- A write of DBGBCR<m> leaves what linking sees of another breakpoint. -/
theorem breakpointView_writeDbgbcr_ne {m n : Fin 16} (w : Word) (s : State) (h : m ≠ n) :
    breakpointView (writeDbgbcr m w s) n = breakpointView s n := by
  have hv : m.val ≠ n.val := fun e => h (Fin.ext e)
  simp [breakpointView, comparisons_writeDbgbcr_ne w s h, Vector.getElem_set_ne, hv]

/-- No access ends as a Breakpoint debug event: that fault belongs to the step (R73). -/
theorem access_ne_event (s : State) (m n : Fin 16) : access s m ≠ some (.breakpointDebugEvent n) := by
  unfold access stateCheck
  cases s.el <;> simp only [accessCheck, el3TrapCheck, haltCheck] <;> split_ifs <;> simp

/-- A step ends as a Breakpoint debug event exactly where no input is pending and the event is. -/
theorem step_eq_event {s : State} {n : Fin 16} :
    step s = .fault (.breakpointDebugEvent n) ↔ s.inputs = [] ∧ pendingEvent s = some n := by
  have hne : ∀ i, exec i s ≠ .fault (.breakpointDebugEvent n) := by
    intro i h
    cases hw : WellFormed i with
    | false =>
      obtain ⟨r, hr⟩ := exec_not_wellFormed s hw
      rw [hr] at h
      cases h
    | true =>
      obtain ⟨ht, he⟩ := exec_wellFormed s hw
      rw [he] at h
      cases hd : i.dir <;> rw [hd] at h <;> exact access_ne_event s i.index n (checked_eq_fault.mp h)
  unfold step
  split
  · next hi => simp [hi]
  · next hi =>
    simp only [hi, true_and]
    split
    · next m hm => simp [hm]
    · next hm =>
      simp only [hm]
      split
      · next why _ => cases why <;> simp [fetchFailed]
      · next i _ => simp [onNext_eq_fault, hne]

/-- Everything a step can do that answers a next state: an input is taken, or an instruction is fetched and
completes. -/
theorem step_next {s t : State} (h : step s = .next t) :
    (∃ i rest, s.inputs = i :: rest ∧ t = applyInput i { s with inputs := rest })
    ∨ (s.inputs = [] ∧ pendingEvent s = none
        ∧ ∃ i u, fetch s = .ok i ∧ exec i s = .next u ∧ t = afterInstruction u) := by
  unfold step at h
  split at h
  · next i rest hi =>
    cases h
    exact .inl ⟨i, rest, hi, rfl⟩
  · next hi =>
    refine .inr ⟨hi, ?_⟩
    split at h
    · cases h
    · next hp =>
      split at h
      · exact absurd h fetchFailed_ne_next
      · next i hf =>
        obtain ⟨u, hu, ht⟩ := onNext_eq_next.mp h
        exact ⟨hp, i, u, hf, hu, ht.symm⟩

end Sys2Proof.Machine
end

