-- ==== Sys2Proof/Laws/PerInstr.lean ====
section
/-! SUPPORT. For every instruction: its word lies in its row of spec/opcode_table.json (match and mask). -/

namespace Sys2Proof.Laws.RowMatch

/-- The word of an instruction has the fixed bits of its row: mask and match as the table gives them
(30_encoding.md R58, R59). -/
def Statement (i : Instr) : Prop :=
  match i with
  | .mrcA32 _ _ _ => encodeWord i &&& 0x0FFF0FF0#32 = 0x0E100EB0#32
  | .mcrA32 _ _ _ => encodeWord i &&& 0x0FFF0FF0#32 = 0x0E000EB0#32
  | .mrcT32 _ _ => encodeWord i &&& 0xFFFF0FF0#32 = 0xEE100EB0#32
  | .mcrT32 _ _ => encodeWord i &&& 0xFFFF0FF0#32 = 0xEE000EB0#32

theorem mrcA32 (cond : BitVec 4) (t n : Fin 16) : Statement (.mrcA32 cond t n) := by
  refine BitVec.eq_of_getLsbD_eq fun i hi => ?_
  simp only [encodeWord, moveWord, dbgbcrAt, BitVec.getLsbD_and, BitVec.getLsbD_append]
  interval_cases i <;> simp

theorem mcrA32 (cond : BitVec 4) (t n : Fin 16) : Statement (.mcrA32 cond t n) := by
  refine BitVec.eq_of_getLsbD_eq fun i hi => ?_
  simp only [encodeWord, moveWord, dbgbcrAt, BitVec.getLsbD_and, BitVec.getLsbD_append]
  interval_cases i <;> simp

theorem mrcT32 (t n : Fin 16) : Statement (.mrcT32 t n) := by
  refine BitVec.eq_of_getLsbD_eq fun i hi => ?_
  simp only [encodeWord, moveWord, dbgbcrAt, BitVec.getLsbD_and, BitVec.getLsbD_append]
  interval_cases i <;> simp

theorem mcrT32 (t n : Fin 16) : Statement (.mcrT32 t n) := by
  refine BitVec.eq_of_getLsbD_eq fun i hi => ?_
  simp only [encodeWord, moveWord, dbgbcrAt, BitVec.getLsbD_and, BitVec.getLsbD_append]
  interval_cases i <;> simp

end Sys2Proof.Laws.RowMatch
end

