-- ==== Sys2Proof/Tests/Slice0.lean ====
section
/-! SUPPORT. Tests on fixed values from 95_test_vectors.md, the well-formedness smoke test, and for every
statement of Certificates/Slice0/Obligations.lean that has hypotheses a state and operands that meet them. -/

namespace Sys2Proof.Tests

open Sys2Proof Sys2Proof.Machine

/-! ### The well-formedness checks refuse -/

theorem test_wf_refuses_r15_mrcA32 : WellFormed (.mrcA32 condAlways 15 0) = false := by decide
theorem test_wf_refuses_r15_mcrA32 : WellFormed (.mcrA32 condAlways 15 0) = false := by decide
theorem test_wf_refuses_r15_mrcT32 : WellFormed (.mrcT32 15 0) = false := by decide
theorem test_wf_refuses_r15_mcrT32 : WellFormed (.mcrT32 15 0) = false := by decide
theorem test_wf_refuses_condition_mrcA32 : WellFormed (.mrcA32 0b0001 0 5) = false := by decide
theorem test_wf_refuses_condition_mcrA32 : WellFormed (.mcrA32 0b0000 0 5) = false := by decide
theorem test_wf_admits_r14 : WellFormed (.mrcA32 0b1110 14 15) = true := by decide

/-! ### Decoding: words written out from R58 and R59 -/

/-- cond 1110, 1110, opc1 000, L 1, CRn 0000, Rt 0111, coproc 1110, opc2 101, 1, CRm 1001 (95 W7). -/
theorem test_decode_mrcA32 :
    decodeWord .a32 0b1110_1110_000_1_0000_0111_1110_101_1_1001#32 = .ok (.mrcA32 0b1110 7 9) := by decide

/-- L 0, Rt 0011, CRm 0010 (95 W8). -/
theorem test_decode_mcrA32 :
    decodeWord .a32 0b1110_1110_000_0_0000_0011_1110_101_1_0010#32 = .ok (.mcrA32 0b1110 3 2) := by decide

/-- First halfword 1110 1110 000 1 0000, second 1110 1110 101 1 1111 (95 W5). -/
theorem test_decode_mrcT32 :
    decodeWord .t32 0b1110_1110_000_1_0000_1110_1110_101_1_1111#32 = .ok (.mrcT32 14 15) := by decide

/-- First halfword 1110 1110 000 0 0000, second 0001 1110 101 1 0101 (95 W4). -/
theorem test_decode_mcrT32 :
    decodeWord .t32 0b1110_1110_000_0_0000_0001_1110_101_1_0101#32 = .ok (.mcrT32 1 5) := by decide

/-- 95 section 2.6: a word with opc2 = 0b100 is not an access to DBGBCR<n>. -/
theorem test_decode_other_register :
    decodeWord .a32 0xEE100E95#32 = .error (.otherRegister ⟨0b1110, 0, 0, 5, 0b100⟩) := by decide

/-- 95 W9: the word matches the A32 row and carries a condition. -/
theorem test_decode_conditional : decodeWord .a32 0x1E100EB5#32 = .ok (.mrcA32 0b0001 0 5) := by decide

/-- R59: a first halfword whose bits 15:11 are not 0b11101. -/
theorem test_decode_narrow_t32 : decode .t32 [0x00, 0xBF] = .error (.otherHalfword 0xBF00) := by decide

theorem test_decode_no_move : decodeWord .a32 0xE1A00000#32 = .error (.otherInstruction 0xE1A00000#32) := by decide

/-- The opcode table's numbers: the T32 rows, and an A32 row with the condition bits 0. -/
theorem test_table_words :
    decodeTableWord 32 0xEE100EB0 = some (.mrcT32 0 0) ∧ decodeTableWord 32 0xEE000EB0 = some (.mcrT32 0 0)
    ∧ decodeTableWord 32 0x0E100EB0 = some (.mrcA32 0 0 0)
    ∧ decodeTableWord 32 0x0E000EB0 = some (.mcrA32 0 0 0) := by decide

/-- 95 W3: `MRC p14, 0, R0, c0, c5, 5`. -/
theorem test_assemble :
    (assemble .a32 ⟨.read, none, none, 14, 0, 0, 0, 5, some 5⟩).map encodeWord = .ok 0xEE100EB5#32 := by decide

/-- The table after R55: an omitted opc2 encodes 0 and names another register; `.N` has no encoding. -/
theorem test_assemble_refuses :
    assemble .a32 ⟨.read, none, none, 14, 0, 0, 0, 5, none⟩ = .error (.otherRegister ⟨14, 0, 0, 5, 0⟩)
    ∧ assemble .t32 ⟨.read, none, some .narrow, 14, 0, 0, 0, 5, some 5⟩ = .error .narrowQualifier
    ∧ assemble .t32 ⟨.read, some 1, none, 14, 0, 0, 0, 5, some 5⟩ = .error (.conditionInT32 1) := by decide

/-! ### Fields (95 section 2.1) -/

theorem test_fields_F10 : pack ⟨0, 0b0101, 7, 0, 0, 0, 0b1100, 0, 0b10, 1⟩ = 0x00570185#32 := by decide
theorem test_fields_F6 : pack ⟨0, 0b0010, 0, 0b01, 1, 0, 0b1111, 0, 0b00, 1⟩ = 0x002061E1#32 := by decide
theorem test_fields_F14 : unpack 0x00F3A1E5#32 = ⟨0, 0b1111, 3, 0b10, 1, 0, 0b1111, 0, 0b10, 1⟩ := by decide
theorem test_fields_F16 : unpack 0x12345678#32 = ⟨0x12, 3, 4, 1, 0, 0b1011, 0b0011, 3, 0, 0⟩ := by decide
theorem test_masks : namedMask ||| res0Mask = 0xFFFFFFFF#32 ∧ namedMask &&& res0Mask = 0#32 := by decide

/-! ### What a read returns (95 section 2.2), for the draws of all zeros and all ones -/

/-- The premises of section 2.2: every stored BT and {HMC, SSC, PMC} is permitted. -/
def impl : Implementation :=
  { resetImplementation with
    permittedBT := Vector.replicate 16 ((List.range 16).map (BitVec.ofNat 4))
    permittedExec := [(0, 0, 3), (0, 0, 2), (0, 0, 1), (0, 0, 0), (1, 3, 3)]
    writeEffect := .nextInstruction }

def storing : Implementation := { impl with res0Stores := some true }
def hardwired : Implementation := { impl with res0Stores := some false }

/-- The bits of a read under a mask, for both draws. -/
def readBits (p : Implementation) (v mask : Word) : List Word :=
  [readValue p 3 false v 0#32 &&& mask, readValue p 3 false v 0xFFFFFFFF#32 &&& mask]

theorem test_read_RD1 : readBits impl 0x001001E7 0xFFFFFFFF = [0x001001E7, 0x001001E7] := by decide
theorem test_read_RD2 : readBits impl 0x000001E7 0xFFF0FFFF = [0x000001E7, 0x000001E7] := by decide
theorem test_read_RD3 : readBits impl 0x003001E7 0xFFF0FFFF = [0x003001E7, 0x003001E7] := by decide
theorem test_read_RD4 : readBits impl 0x00200001 0xFFF0FE1F = [0x00200001, 0x00200001] := by decide
theorem test_read_RD5 : readBits impl 0x00400007 0xFFF0FFFF = [0x00400007, 0x00400007] := by decide
theorem test_read_RD6 : readBits impl 0x00570185 0xFFF0FFFF = [0x00500185, 0x00500185] := by decide
theorem test_read_RD7 : readBits impl 0x00000047 0xFFF0FE1F = [0x00000007, 0x00000007] := by decide
theorem test_read_RD8 : readBits impl 0x00000000 0xFFF0FE1F = [0x00000000, 0x00000000] := by decide
theorem test_read_RD9 : readBits impl 0xFFFFFFFF 0x00F0E1E7 = [0x00F0E1E7, 0x00F0E1E7] := by decide
theorem test_read_RD10 : readBits storing 0xFFFFFFFF 0xFFF0FFFF = [0xFFF0FFFF, 0xFFF0FFFF] := by decide
theorem test_read_RD11 : readBits hardwired 0xFFFFFFFF 0xFFF0FFFF = [0x00F0E1E7, 0x00F0E1E7] := by decide
/-- RD12: not written since a Cold reset, every bit follows the draw. -/
theorem test_read_RD12 :
    readValue impl 3 true 0x001001E7 0#32 = 0#32
    ∧ readValue impl 3 true 0x001001E7 0xFFFFFFFF#32 = 0xFFFFFFFF#32 := by decide
/-- The free bits of RD2 and RD7 do follow the draw. -/
theorem test_read_open_bits :
    readBits impl 0x000001E7 0x000F0000 = [0, 0x000F0000] ∧ readBits impl 0x00000047 0x000001E0 = [0, 0x000001E0] := by
  decide

/-! ### The access check (95 section 2.3) -/

/-- The base context B. -/
def base : Context := resetContext

def und : Option Fault := some .undefined
def t2 : Option Fault := some (.sysAccessTrap .el2 0x05)
def hyp : Option Fault := some (.hypTrap 0x05)
def t3 : Option Fault := some (.sysAccessTrap .el3 0x05)
def hlt : Option Fault := some (.halt .softwareAccess)

/-- The outcomes at EL0, EL1 (parameter false, true), EL2 (both), EL3. -/
def outcomes (c : Context) : List (Option Fault) :=
  [accessCheck false c .el0, accessCheck false c .el1, accessCheck true c .el1, accessCheck false c .el2,
   accessCheck true c .el2, accessCheck true c .el3]

def v12 : Context := { base with haveEL3 := true, mdcrEl3Tda := true, halted := true, edscrSdd := true }
def v18 : Context := { base with oslk := false, haltingAllowed := true, edscrTda := true }
def v2 : Context := { base with el2Enabled := true, mdcrEl2Tda := true }
def v4 : Context := { base with el2Enabled := true, el2UsingAArch32 := true, hdcrTda := true }
def v9 : Context := { base with haveEL3 := true, mdcrEl3Tda := true }
def v17 : Context := { v9 with el2Enabled := true, mdcrEl2Tda := true }

theorem test_access_V1_to_V5 :
    outcomes base = [und, none, none, none, none, none] ∧ outcomes v2 = [und, t2, t2, none, none, none]
    ∧ outcomes { base with el2Enabled := true, mdcrEl2Tde := true } = [und, t2, t2, none, none, none]
    ∧ outcomes v4 = [und, hyp, hyp, none, none, none]
    ∧ outcomes { base with el2Enabled := true, el2UsingAArch32 := true, hdcrTde := true }
        = [und, hyp, hyp, none, none, none] := by decide

theorem test_access_V6_to_V8 :
    outcomes { base with mdcrEl2Tde := true, mdcrEl2Tda := true, hdcrTde := true, hdcrTda := true }
      = [und, none, none, none, none, none]
    ∧ outcomes { base with el2Enabled := true, hdcrTde := true, hdcrTda := true }
      = [und, none, none, none, none, none]
    ∧ outcomes { base with el2Enabled := true, el2UsingAArch32 := true, mdcrEl2Tde := true, mdcrEl2Tda := true }
      = [und, none, none, none, none, none] := by decide

theorem test_access_V9_to_V14 :
    outcomes v9 = [und, t3, t3, t3, t3, none]
    ∧ outcomes { v9 with el3UsingAArch32 := true } = [und, none, none, none, none, none]
    ∧ outcomes { base with mdcrEl3Tda := true } = [und, none, none, none, none, none]
    ∧ outcomes v12 = [und, und, und, und, und, none]
    ∧ outcomes { v12 with edscrSdd := false } = [und, t3, t3, t3, t3, none]
    ∧ outcomes { v12 with halted := false } = [und, t3, t3, t3, t3, none] := by decide

theorem test_access_V15_to_V17 :
    outcomes { v12 with el2Enabled := true, mdcrEl2Tda := true } = [und, t2, und, und, und, none]
    ∧ outcomes { v12 with el2Enabled := true, el2UsingAArch32 := true, hdcrTde := true }
      = [und, hyp, und, und, und, none]
    ∧ outcomes v17 = [und, t2, t2, t3, t3, none] := by decide

theorem test_access_V18_to_V21 :
    outcomes v18 = [und, hlt, hlt, hlt, hlt, hlt]
    ∧ outcomes { v18 with oslk := true } = [und, none, none, none, none, none]
    ∧ outcomes { v18 with haltingAllowed := false } = [und, none, none, none, none, none]
    ∧ outcomes { v18 with edscrTda := false } = [und, none, none, none, none, none] := by decide

theorem test_access_V22_to_V25 :
    outcomes { v18 with el2Enabled := true, mdcrEl2Tda := true } = [und, t2, t2, hlt, hlt, hlt]
    ∧ outcomes { v18 with haveEL3 := true, mdcrEl3Tda := true } = [und, t3, t3, t3, t3, hlt]
    ∧ outcomes { v18 with haveEL3 := true, mdcrEl3Tda := true, halted := true, edscrSdd := true }
      = [und, und, und, und, und, hlt]
    ∧ outcomes { v18 with haveEL3 := true, mdcrEl3Tda := true, halted := true, edscrSdd := true,
                          el3UsingAArch32 := true } = [und, hlt, hlt, hlt, hlt, hlt] := by decide

/-! ### States -/

/-- Every register known, holding `v`; EL1 and the base context; nothing pending. -/
def holding (v : Word) : State :=
  { State.reset with
    impl := storing
    dbgbcr := Vector.replicate 16 v
    unknown := Vector.replicate 16 false
    everEnabled := Vector.replicate 16 (enabled v)
    inputs := []
    laterInputs := []
    eventRequest := none
    x := Vector.replicate 15 0xAAAAAAAA#32 }

def at_ (el : EL) (c : Context) (s : State) : State := { s with el := el, ctx := c }

/-- Breakpoint 6 is not implemented. -/
def without6 (first : Option Bool) : State :=
  let s := holding 0x000001E7
  { s with impl := { s.impl with implemented := s.impl.implemented.set 6 false, unimplCheckFirst := first } }

def nextOf {α : Type} (f : State → α) : Host.Outcome State Fault Refusal → Option α
  | .next s => some (f s)
  | .fault _ => none
  | .refused _ => none

def faultOf : Host.Outcome State Fault Refusal → Option Fault
  | .next _ => none
  | .fault f => some f
  | .refused _ => none

/-! ### The existence checks (95 section 2.4) and whole instructions (95 section 2.5) -/

theorem test_existence_X2_X3_X8 :
    access (without6 none) 6 = und ∧ access (at_ .el1 v12 (without6 (some false))) 6 = und
    ∧ access (at_ .el0 base (without6 (some false))) 6 = und := by decide

theorem test_existence_X5_X6_X9 :
    access (at_ .el1 v2 (without6 (some true))) 6 = und ∧ access (at_ .el1 v2 (without6 (some false))) 6 = t2
    ∧ access (at_ .el1 v2 (without6 (some true))) 5 = t2 := by decide

theorem test_mrcA32_S1 :
    nextOf (fun t => (t.x[0], t.dbgbcr[5], t.pc)) (exec (.mrcA32 condAlways 0 5) (holding 0x001001E7))
      = some (0x001001E7#32, 0x001001E7#32, 4) := by decide

theorem test_mcrA32_S2 :
    nextOf (fun t => (t.dbgbcr[5], t.dbgbcr[4], t.x[1], t.pc))
      (exec (.mcrA32 condAlways 1 5) { holding 0x001001E7 with x := Vector.replicate 15 0#32 })
      = some (0#32, 0x001001E7#32, 0#32, 4) := by decide

theorem test_mrcA32_S3 : faultOf (exec (.mrcA32 condAlways 0 0) (at_ .el0 v18 (holding 0x000001E7))) = und := by
  decide

theorem test_mcrT32_S5 : faultOf (exec (.mcrT32 3 2) (at_ .el1 v2 (holding 0x000001E7))) = t2 := by decide

theorem test_mcrT32_S6 :
    nextOf (fun t => (t.dbgbcr[2], t.pc)) (exec (.mcrT32 3 2) (at_ .el2 v2 (holding 0x000001E7)))
      = some (0xAAAAAAAA#32, 4) := by decide

theorem test_mrcT32_S8 : faultOf (exec (.mrcT32 14 15) (at_ .el2 v9 (holding 0x001001E7))) = t3 := by decide

theorem test_mrcT32_S9 :
    nextOf (fun t => t.x[14]) (exec (.mrcT32 14 15) (at_ .el3 v9 (holding 0x001001E7))) = some 0x001001E7#32 := by
  decide

theorem test_mcrA32_S10 : faultOf (exec (.mcrA32 condAlways 0 0) (at_ .el3 v18 (holding 0))) = hlt := by decide

/-- The first instruction after reset completes, whatever the free values are. -/
theorem test_step_from_reset :
    nextOf (fun t => t.pc) (step (State.reset.withFetchWord 32 0xEE10EEBF)) = some 4
    ∧ nextOf (fun t => (t.pc, t.dbgbcr[2])) (step (State.reset.withFetchWord 32 0xEE003EB2)) = some (4, 0#32) := by
  decide

/-- R87, D16: from reset an event that is asked for takes the step's place. -/
theorem test_event_from_reset :
    faultOf (step { State.reset with inputs := [], eventRequest := some 3 }) = some (.breakpointDebugEvent 3) := by decide

/-- R34, R35: DBGBVR<n>+2 for BAS = 0b1100. -/
theorem test_comparison_offset :
    comparisons { holding 0x00000182 with companion := { resetCompanion with bvr := Vector.replicate 16 0x8000 } } 5
      = [.instructionAt 0x8002 [0x8002]] := by decide

/-- R34: BAS = 0b1111 selects both halfwords. -/
theorem test_comparison_both_halfwords :
    comparisons { holding 0x000001E7 with companion := { resetCompanion with bvr := Vector.replicate 16 0x8000 } } 5
      = [.instructionAt 0x8000 [0x8000, 0x8002]] := by decide

/-- R10, R30, R36: of 0xFF2F1E1F (BT 0b0010, Context matching) linking sees neither RES0 nor LBN nor BAS. -/
theorem test_linking_sees_no_ignored_bits :
    (breakpointView (holding 0xFF2F1E1F) 5).control = 0x002001E7#32
    ∧ (breakpointView (holding 0xFF2F1E1E) 5).control = 0#32 := by decide

/-- R52, R85: a write through another view falls between two instructions. -/
theorem test_input_between_instructions :
    nextOf (fun t => t.inputs)
      (step { State.reset.withFetchWord 32 0xEE10EEBF with laterInputs := [[.viewWrite .external 2 1]] })
      = some [.viewWrite .external 2 1] := by decide

/-! ### Witnesses: every statement's hypotheses are met somewhere -/

/-- Bytes at the pc, the rest as given. -/
def running (bytes : List Byte) (s : State) : State := { s with mem := Memory.writeBytes [] s.pc bytes }

def mrc : Instr := .mrcA32 condAlways 0 5
def mcr : Instr := .mcrA32 condAlways 1 5

/-- A known, all-permitted, disabled linked address type at the text of `mrc`. -/
def quiet : State := running (encode mrc) (holding 0x001001E6)

theorem quiet_inputs : quiet.inputs = [] := rfl

theorem test_witness_EncodeOfDecodeIsTheBytes :
    decode .t32 [0x10, 0xEE, 0xBF, 0xEE, 7] = .ok (.mrcT32 14 15, [7]) := by decide

theorem test_witness_DecodeAcceptsExactlyTheRows :
    0x1E10FEBF#32 &&& 0x0FFF0FF0#32 = 0x0E100EB0#32 ∧ 0xFE00FEBF#32 &&& 0x0FFF0FF0#32 = 0x0E000EB0#32
    ∧ 0xEE100E95#32 &&& 0x0FFF0FF0#32 ≠ 0x0E100EB0#32 ∧ 0xEE100E95#32 &&& 0x0FFF0FF0#32 ≠ 0x0E000EB0#32
    ∧ 0xEE10FEBF#32 &&& 0xFFFF0FF0#32 = 0xEE100EB0#32 ∧ 0xEE00FEBF#32 &&& 0xFFFF0FF0#32 = 0xEE000EB0#32
    ∧ 0x0E100EB0#32 &&& 0xFFFF0FF0#32 ≠ 0xEE100EB0#32 ∧ 0x0E100EB0#32 &&& 0xFFFF0FF0#32 ≠ 0xEE000EB0#32 := by
  decide

theorem test_witness_OtherCoordinatesAreRefusedByName :
    (⟨14, 0, 0, 15, 4⟩ : Coordinates) ≠ dbgbcrAt 15 ∧ (⟨15, 0, 0, 0, 5⟩ : Coordinates) ≠ dbgbcrAt 0 := by decide

theorem test_witness_AssemblerLineGivesItsWord :
    assemble .t32 ⟨.write, none, some .wide, 14, 0, 14, 0, 15, some 5⟩ = .ok (.mcrT32 14 15) := by decide

theorem test_witness_AccessAtEl0IsUndefined : WellFormed mrc = true ∧ (at_ .el0 base quiet).el = .el0 := by decide

theorem test_witness_AccessWithoutAArch32IsUndefined :
    WellFormed mcr = true
    ∧ ({ quiet with impl := { impl with haveAnyAArch32 := false } } : State).impl.haveAnyAArch32 = false := by decide

/-- One context for each of the seven clauses, in their order; the outcomes are the rule's. -/
theorem test_witness_El1TestsInOrder :
    quiet.el = .el1 ∧ quiet.impl.haveAnyAArch32 = true ∧ quiet.impl.implemented[mrc.index] = true
    ∧ faultOf (exec mrc { at_ .el1 v12 quiet with impl := { storing with el3TrapPriorityWhenSdd := true } }) = und
    ∧ faultOf (exec mrc (at_ .el1 v17 quiet)) = t2 ∧ faultOf (exec mrc (at_ .el1 v4 quiet)) = hyp
    ∧ faultOf (exec mrc (at_ .el1 v12 quiet)) = und ∧ faultOf (exec mrc (at_ .el1 v9 quiet)) = t3
    ∧ faultOf (exec mrc (at_ .el1 v18 quiet)) = hlt ∧ nextOf (fun t => t.pc) (exec mrc quiet) = some 4 := by
  decide

theorem test_witness_El2TestsInOrder :
    (at_ .el2 base quiet).el = .el2 ∧ faultOf (exec mcr (at_ .el2 v12 quiet)) = und
    ∧ faultOf (exec mcr (at_ .el2 v17 quiet)) = t3 ∧ faultOf (exec mcr (at_ .el2 v18 quiet)) = hlt
    ∧ nextOf (fun t => t.pc) (exec mcr (at_ .el2 v2 quiet)) = some 4 := by decide

theorem test_witness_El3TestsTheHaltOnly :
    (at_ .el3 base quiet).el = .el3 ∧ faultOf (exec mcr (at_ .el3 v18 quiet)) = hlt
    ∧ nextOf (fun t => t.pc) (exec mcr (at_ .el3 v12 quiet)) = some 4 := by decide

theorem test_witness_TrapPriorityMattersOnlyOverTheEl2Traps :
    accessCheck true { v12 with el2Enabled := true, mdcrEl2Tda := true } .el1
      ≠ accessCheck false { v12 with el2Enabled := true, mdcrEl2Tda := true } .el1 := by decide

theorem test_witness_ReadAndWriteMeetTheSameOutcome :
    WellFormed mrc = true ∧ WellFormed mcr = true ∧ mrc.index = mcr.index
    ∧ (holding 7).impl = quiet.impl ∧ (holding 7).ctx = quiet.ctx ∧ (holding 7).el = quiet.el
    ∧ (holding 7).draws = quiet.draws := by decide

theorem test_witness_ExistenceChecksOfAnAccess :
    WellFormed (.mcrT32 0 6) = true ∧ (without6 none).impl.implemented[6] = false
    ∧ stateCheck (without6 none) = none ∧ stateCheck (at_ .el1 v2 (without6 none)) = t2
    ∧ (without6 (some true)).impl.unimplCheckFirst = some true
    ∧ (without6 (some false)).impl.unimplCheckFirst = some false
    ∧ (without6 none).impl.implemented[5] = true ∧ (without6 none).impl.haveAnyAArch32 = true := by decide

theorem test_witness_OutcomesAreClosed :
    WellFormed mrc = true ∧ WellFormed mcr = true ∧ WellFormed (.mrcT32 0 0) = true
    ∧ WellFormed (.mcrT32 14 15) = true := by decide

theorem test_witness_AccessSucceedsExactlyWhenAllowed_at_el1 : AccessAllowed quiet 15 := by decide
theorem test_witness_AccessSucceedsExactlyWhenAllowed_trapped : ¬ AccessAllowed (at_ .el1 v2 quiet) 0 := by decide
theorem test_witness_AccessSucceedsExactlyWhenAllowed_at_el2 : AccessAllowed (at_ .el2 v2 quiet) 0 := by decide
theorem test_witness_AccessSucceedsExactlyWhenAllowed_at_el3 : AccessAllowed (at_ .el3 v12 quiet) 7 := by decide
theorem test_witness_AccessSucceedsExactlyWhenAllowed_at_el0 : ¬ AccessAllowed (at_ .el0 base quiet) 0 := by decide

theorem test_witness_FormsTheSpecRefusesAreRefused :
    (0b0000#4 : BitVec 4) ≠ 0b1110#4 ∧ 0b1111#4 ≠ 0b1110#4 := by
  decide

theorem test_witness_MrcReadsTheRegisterIntoRt :
    mrc = .mrcA32 condAlways ((0 : Fin 15).castLE (by decide)) 5 ∧ AccessAllowed quiet 5
    ∧ access (at_ .el1 v9 quiet) 5 = t3 := by decide

theorem test_witness_McrWritesRtToTheRegister :
    mcr = .mcrA32 condAlways ((1 : Fin 15).castLE (by decide)) 5 ∧ AccessAllowed (at_ .el3 v12 quiet) 5
    ∧ access (at_ .el3 v18 quiet) 5 = hlt := by decide

theorem test_witness_MrcFrame : mrc.dir = .read ∧ ∃ t, exec mrc quiet = .next t := ⟨rfl, _, rfl⟩

theorem test_witness_McrFrame : mcr.dir = .write ∧ ∃ t, exec mcr quiet = .next t := ⟨rfl, _, rfl⟩

/-- A linked address type, a Context matching type, and the three settings of RES0_STORES. -/
theorem test_witness_ReadReturnsEveryField :
    mrc.dir = .read ∧ mrc.index = 5 ∧ (∃ t, exec mrc quiet = .next t) ∧ quiet.unknown[5] = false
    ∧ (unpack quiet.dbgbcr[5]).bt = 0b0001#4 ∧ AllPermitted quiet.impl 5 quiet.dbgbcr[5]
    ∧ btClass (unpack quiet.dbgbcr[5]).bt ≠ .contextMatching
    ∧ btClass (unpack (holding 0x003001E6).dbgbcr[5]).bt = .contextMatching
    ∧ storing.res0Stores = some true ∧ hardwired.res0Stores = some false ∧ impl.res0Stores = none :=
  ⟨rfl, rfl, ⟨_, rfl⟩, by decide, by decide, by decide, by decide, by decide, rfl, rfl, rfl⟩

/-- The clauses about open fields: RD7's value, a BT other than 0b0001 with a reserved BAS; and with the sets of
reset a reserved BT and reserved controls. -/
theorem test_witness_ReadReturnsEveryField_open :
    (∃ t, exec mrc (holding 0x00000047) = .next t) ∧ (holding 0x00000047).unknown[5] = false
    ∧ (unpack 0x00000047#32).bt ≠ 0b0001#4
    ∧ basPermitted (btClass (unpack 0x00000047#32).bt) (unpack 0x00000047#32).bas = false
    ∧ btPermitted resetImplementation 5 0b0000#4 = false
    ∧ execPermitted resetImplementation (unpack 0x00000047#32) = false :=
  ⟨⟨_, rfl⟩, by decide, by decide, by decide, by decide, by decide⟩

theorem test_witness_ReadBeforeTheFirstWriteIsADraw :
    AccessAllowed State.reset 15 ∧ State.reset.unknown[15] = true ∧ State.reset.impl.res0Stores = none
    ∧ storing.res0Stores = some true ∧ hardwired.res0Stores = some false := by decide

/-- The values of x[1] that the three masks speak of. -/
def writing (w : Word) : State := { quiet with x := Vector.replicate 15 w }

theorem test_witness_ReadAfterWriteReturnsTheValueWritten :
    mcr.dir = .write ∧ mrc.dir = .read ∧ mrc.index = mcr.index ∧ WellFormed mrc = true
    ∧ (∃ t, exec mcr (writing 0x001001E6) = .next t) ∧ (∃ t, exec mcr (writing 0x003001E6) = .next t)
    ∧ AllPermitted quiet.impl 5 0x001001E6#32 ∧ btClass (unpack 0x001001E6#32).bt ≠ .contextMatching
    ∧ AllPermitted quiet.impl 5 0x003001E6#32 ∧ btClass (unpack 0x003001E6#32).bt = .contextMatching
    ∧ (unpack 0x001001E6#32).bt = 0b0001#4 :=
  ⟨rfl, rfl, rfl, rfl, ⟨_, rfl⟩, ⟨_, rfl⟩, by decide, by decide, by decide, by decide, by decide⟩

theorem test_witness_ReadIsIndependentOfOtherBreakpoints :
    mrc.dir = .read ∧ (4 : Fin 16) ≠ mrc.index ∧ (∃ t, exec mrc quiet = .next t)
    ∧ faultOf (exec mrc (at_ .el1 v2 quiet)) = t2 ∧ ∃ r, exec (.mrcA32 condAlways 15 5) quiet = .refused r :=
  ⟨rfl, by decide, ⟨_, rfl⟩, by decide, ⟨_, rfl⟩⟩

/-- R16 with HaveVHE, EL2 using AArch64 and E2H, at EL2 and (TGE) at EL0; and without. -/
def vhe (el : EL) : State :=
  { holding 0x002001E7 with
    impl := { impl with haveVHE := true }, el := el
    companion := { resetCompanion with effectiveE2H := true, hcrTge := true, contextidr := 1, contextidrEl2 := 2 } }

theorem test_witness_ContextIdMatchSelectsItsTarget :
    (unpack (vhe .el2).dbgbcr[0]).bt = 0b0010#4 ∧ contextTarget (vhe .el2) = 2 ∧ contextTarget (vhe .el0) = 2
    ∧ contextTarget (vhe .el1) = 1 ∧ contextTarget (vhe .el3) = 1 := by decide

theorem test_witness_AddressTypesLookAtTheHalfwordBasSelects :
    (unpack (holding 0x00130067).dbgbcr[0]).bt = 0b0001#4 ∧ (unpack (holding 0x00130067).dbgbcr[0]).bas = 0b0011#4
    ∧ (unpack (holding 0x00570185).dbgbcr[0]).bt = 0b0101#4
    ∧ (unpack (holding 0x00570185).dbgbcr[0]).bas = 0b1100#4
    ∧ (unpack (holding 0x00400007).dbgbcr[0]).bt = 0b0100#4
    ∧ (unpack (holding 0x00400007).dbgbcr[0]).bas = 0b0000#4 := by decide

theorem test_witness_ContextTypesCompareTheirRegisters :
    (unpack (holding 0x006001E7).dbgbcr[0]).bt = 0b0110#4 ∧ (unpack (holding 0x008001E7).dbgbcr[0]).bt = 0b1000#4
    ∧ (unpack (holding 0x00A001E7).dbgbcr[0]).bt = 0b1010#4
    ∧ (unpack (holding 0x00C001E7).dbgbcr[0]).bt = 0b1100#4
    ∧ (unpack (holding 0x00FFE1E7).dbgbcr[0]).bt = 0b1111#4 := by decide

theorem test_witness_EventNeedsAnEnabledBreakpoint :
    step { State.reset with inputs := [], eventRequest := some 15 } = .fault (.breakpointDebugEvent 15) := rfl

/-- The other grounds: a reserved value, a missing DBGBXVR<n>, an unknown partner, and an earlier value. -/
theorem test_witness_EventNeedsAnEnabledBreakpoint_grounds :
    faultOf (step { holding 0x00000047 with eventRequest := some 0 }) = some (.breakpointDebugEvent 0)
    ∧ faultOf (step { holding 0x008001E7 with eventRequest := some 0 }) = some (.breakpointDebugEvent 0)
    ∧ faultOf (step { holding 0x001F01E7 with unknown := (Vector.replicate 16 false).set 15 true,
                                              eventRequest := some 0 }) = some (.breakpointDebugEvent 0)
    ∧ faultOf (step { holding 0 with impl := { storing with writeEffect := .wholeRun },
                                     everEnabled := Vector.replicate 16 true, eventRequest := some 0 })
      = some (.breakpointDebugEvent 0) := by decide

theorem test_witness_NoEventWhenEveryBreakpointIsDisabled :
    quiet.impl.writeEffect = .nextInstruction ∧ AllDisabled quiet ∧ (∃ t, step quiet = .next t)
    ∧ (∀ l rest, quiet.inputs ≠ .coldReset l :: rest)
    ∧ (∀ v n w rest, quiet.inputs = .viewWrite v n w :: rest → enabled w = false)
    ∧ ∀ (i : Instr) (h : i.rt.val < 15), quiet.inputs = [] → fetch quiet = .ok i → i.dir = .write →
        enabled (quiet.x[i.rt.val]'h) = false :=
  ⟨rfl, by decide, ⟨_, rfl⟩, by simp [quiet_inputs], by simp [quiet_inputs], fun i _ _ hf hd => by
    rw [show fetch quiet = .ok mrc by decide] at hf; cases hf; cases hd⟩

/-- The R91 initialisation: an MCR of a value with E = 0. -/
theorem test_witness_NoEventWhenEveryBreakpointIsDisabled_mcr :
    AllDisabled (running (encode mcr) quiet) ∧ (∃ t, step (running (encode mcr) quiet) = .next t)
    ∧ (running (encode mcr) quiet).impl.writeEffect = .nextInstruction
    ∧ fetch (running (encode mcr) quiet) = .ok mcr ∧ enabled (running (encode mcr) quiet).x[1] = false :=
  ⟨by decide, ⟨_, rfl⟩, rfl, by decide, by decide⟩

theorem test_witness_EventIsPossibleWhileAValueIsUnknown :
    let s : State := { State.reset with inputs := [], eventRequest := some 15 }
    s.inputs = [] ∧ s.impl.haveAnyAArch32 = true ∧ s.impl.implemented[15] = true ∧ s.unknown[15] = true
    ∧ s.eventRequest = some 15 := by decide

theorem test_witness_DisabledBreakpointIgnoresItsFields :
    quiet.impl.writeEffect = .nextInstruction ∧ (unpack 0xFFFFFFFE#32).e = 0#1 := by decide

theorem test_witness_StepRunsTheDecodedInstruction :
    quiet.inputs = [] ∧ pendingEvent quiet = none
    ∧ decode quiet.iset (Memory.readBytes quiet.mem quiet.pc 4) = .ok (mrc, [])
    ∧ (∃ t, exec mrc quiet = .next t) ∧ faultOf (exec mrc (at_ .el0 base quiet)) = und :=
  ⟨rfl, by decide, by decide, ⟨_, rfl⟩, by decide⟩

theorem test_witness_StepCompletesTheEncodedAccess :
    quiet.inputs = [] ∧ quiet.eventRequest = none ∧ quiet.iset = mrc.set ∧ WellFormed mrc = true
    ∧ Memory.readBytes quiet.mem quiet.pc 4 = encode mrc ∧ AccessAllowed quiet mrc.index := by decide

theorem test_witness_StepRunsThePlacedWord : decodeTableWord 32 0xEE00EEBF = some (.mcrT32 14 15) := by decide

theorem test_witness_StepWithoutProgramTextFaults :
    let s : State := { State.reset with inputs := [], eventRequest := none }
    s.inputs = [] ∧ s.eventRequest = none ∧ Memory.read s.mem s.pc = none := by decide

/-- A state with one input pending. -/
def given (i : Input) : State := { quiet with inputs := [i] }

theorem test_witness_ColdResetDrawsEveryField :
    (given (.coldReset resetLaunch)).inputs = .coldReset resetLaunch :: [] := by
  decide

theorem test_witness_WarmResetKeepsTheNamedFields :
    (given (.warmReset resetLaunch)).inputs = .warmReset resetLaunch :: [] := by decide

theorem test_witness_WriteThroughAnotherViewIsRead :
    (given (.viewWrite .external 15 7)).inputs = .viewWrite .external 15 7 :: []
    ∧ quiet.impl.implemented[15] = true ∧ (without6 none).impl.implemented[6] = false
    ∧ ∃ u, exec (.mrcT32 0 15) (viewWrite 15 7 quiet) = .next u :=
  ⟨rfl, by decide, by decide, _, rfl⟩

theorem test_witness_StepKeepsTheInvariant :
    Inv quiet ∧ (∃ t, step quiet = .next t) ∧ ∃ t, step (given (.viewWrite .aarch64 0 1)) = .next t :=
  ⟨by decide, ⟨_, rfl⟩, ⟨_, rfl⟩⟩

theorem test_witness_StepKeepsConfigurationAndText : ∃ t, step (given (.contextChange v12)) = .next t := ⟨_, rfl⟩

theorem test_witness_InstructionStepKeepsTheRest :
    quiet.inputs = [] ∧ (∃ t, step quiet = .next t) ∧ fetch quiet = .ok mrc ∧ mrc.dir = .read
    ∧ (∃ t, step (running (encode mcr) quiet) = .next t) ∧ fetch (running (encode mcr) quiet) = .ok mcr
    ∧ mcr.dir = .write :=
  ⟨rfl, ⟨_, rfl⟩, by decide, rfl, ⟨_, rfl⟩, by decide, rfl⟩

/-- An MCR that changes DBGBCR5, a write through a view, and the premise that excludes it. -/
theorem test_witness_BankIsWrittenByThreeMeansOnly :
    nextOf (fun t => decide (t.dbgbcr[5] ≠ quiet.dbgbcr[5])) (step (running (encode mcr) quiet)) = some true
    ∧ nextOf (fun t => decide (t.dbgbcr[5] ≠ quiet.dbgbcr[5])) (step (given (.viewWrite .aarch64 5 1))) = some true
    ∧ NoOtherWriter (given (.viewWrite .aarch64 5 1)) = false ∧ NoOtherWriter quiet = true := by decide

theorem test_witness_NoInstructionCompletesAtEl0 :
    (at_ .el0 base quiet).el = .el0 ∧ (at_ .el0 base quiet).inputs = [] := by
  decide

theorem test_witness_LevelChangesByResetOnly :
    nextOf (fun t => decide (t.el ≠ .el1)) (step (given (.warmReset { resetLaunch with el := .el3 }))) = some true := by
  decide

/-- EL3 exists and uses AArch32, and the PE is at EL3. -/
theorem test_witness_ConsistencyIsKeptByInstructions :
    ArmConsistent (at_ .el3 { base with haveEL3 := true, el3UsingAArch32 := true } quiet)
    ∧ ∃ t, step (at_ .el3 { base with haveEL3 := true, el3UsingAArch32 := true } quiet) = .next t :=
  ⟨by decide, _, rfl⟩

/-- An MRC, a Cold reset, another input. -/
theorem test_witness_NoDrawIsUsedTwice :
    (∃ t, step quiet = .next t) ∧ fetch quiet = .ok mrc ∧ (∃ t, step (given (.coldReset resetLaunch)) = .next t)
    ∧ (∃ t, step (given (.contextChange v12)) = .next t) ∧ ∀ l, Input.contextChange v12 ≠ .coldReset l :=
  ⟨⟨_, rfl⟩, by decide, ⟨_, rfl⟩, ⟨_, rfl⟩, fun _ h => by cases h⟩

/-- RES0 bits and LBN of an unlinked type; BAS of a Context matching type; every field of a disabled one. -/
theorem test_witness_IgnoredBitsHaveNoEffectOnEvents :
    (unpack 0xFF0F1FFF#32).e = (unpack 0x000001E7#32).e ∧ (unpack 0xFF0F1FFF#32).bt = (unpack 0x000001E7#32).bt
    ∧ (unpack 0xFF0F1FFF#32).ssc = (unpack 0x000001E7#32).ssc ∧ (unpack 0xFF0F1FFF#32).hmc = (unpack 0x000001E7#32).hmc
    ∧ (unpack 0xFF0F1FFF#32).pmc = (unpack 0x000001E7#32).pmc ∧ (unpack 0xFF0F1FFF#32).bas = (unpack 0x000001E7#32).bas
    ∧ btClass (unpack 0x00200001#32).bt = .contextMatching ∧ (unpack 0x00570184#32).e = (unpack 0#32).e
    ∧ (unpack 0x00570185#32).bt = 0b0101#4 ∧ (unpack 0x00170185#32).bt = 0b0001#4 := by decide

theorem test_witness_MatchAnywhereExemptsNoAddress :
    (unpack (holding 0x00400007).dbgbcr[0]).bas = 0b0000#4 ∧ (unpack (holding 0x00400007).dbgbcr[0]).bt = 0b0100#4
    ∧ (unpack (holding 0x00500007).dbgbcr[15]).bas = 0b0000#4
    ∧ (unpack (holding 0x00500007).dbgbcr[15]).bt = 0b0101#4
    ∧ comparisons (holding 0x00500007) 15 = [.steppedAnywhere] := by decide

theorem test_witness_ContextAndCompanionChangeAloneAsGiven :
    (given (.contextChange v12)).inputs = .contextChange v12 :: []
    ∧ (given (.companionChange resetCompanion)).inputs = .companionChange resetCompanion :: [] := by decide

/-- Another register, another instruction, a T32 16-bit instruction, and text that ends early. -/
theorem test_witness_StepRefusesOtherEncodings :
    let other : State := running [0x95, 0x0E, 0x10, 0xEE] quiet
    let short : State := { quiet with mem := [(0, 0xB5), (1, 0x0E)] }
    other.inputs = [] ∧ pendingEvent other = none
    ∧ decode other.iset (Memory.readBytes other.mem other.pc 4) = .error (.otherRegister ⟨14, 0, 0, 5, 4⟩)
    ∧ decode .a32 [0x00, 0x00, 0xA0, 0xE1] = .error (.otherInstruction 0xE1A00000)
    ∧ decode .t32 [0x00, 0xBF, 0, 0] = .error (.otherHalfword 0xBF00)
    ∧ pendingEvent short = none ∧ decode short.iset (Memory.readBytes short.mem short.pc 4) = .error .truncated := by
  decide

theorem test_witness_NoOtherWriterHoldsThroughTheRun :
    NoOtherWriter { quiet with laterInputs := [[.warmReset resetLaunch], []] } = true
    ∧ NoOtherWriter { quiet with laterInputs := [[], [.viewWrite .aarch64 5 1]] } = false
    ∧ ∃ t, step { quiet with laterInputs := [[.warmReset resetLaunch], []] } = .next t :=
  ⟨by decide, by decide, _, rfl⟩

end Sys2Proof.Tests
end

/-! PROOFS. 00_scope.md: where an access proceeds (R2, R3, R63 to R68), and what no step changes (R4, R53). -/

namespace Sys2Proof.Machine

/-! ### Where the access check finds nothing -/

/-- The tests of `accessCheck` are a chain of these: a test lets the access proceed when it does not fire and the
rest of the chain lets it proceed. -/
theorem ite_fault_eq_none {p : Prop} [Decidable p] {f : Fault} {rest : Option Fault} :
    (if p then some f else rest) = none ↔ ¬ p ∧ rest = none := by
  by_cases hp : p <;> simp [hp]

theorem haltCheck_eq_none {c : Context} :
    haltCheck c = none ↔ ¬ (c.oslk = false ∧ c.haltingAllowed = true ∧ c.edscrTda = true) := by
  simp [haltCheck]

theorem el3TrapArmed_iff {c : Context} :
    el3TrapArmed c = true ↔ c.haveEL3 = true ∧ c.el3UsingAArch32 = false ∧ c.mdcrEl3Tda = true := by
  simp [el3TrapArmed, and_assoc]

/-- Whichever of its two faults an armed trap to EL3 becomes, it is a fault. -/
theorem el3TrapCheck_eq_none {c : Context} :
    el3TrapCheck c = none ↔ ¬ el3TrapArmed c = true ∧ haltCheck c = none := by
  unfold el3TrapCheck
  by_cases harmed : el3TrapArmed c = true
  · by_cases hsdd : haltedSecureDisabled c = true <;> simp [harmed, hsdd]
  · simp [harmed]

/-- Test 1 of R64 and R65 fires only where the trap to EL3 is armed, so it forbids no access which that trap
allows. -/
theorem el3TrapArmed_of_earlyUndefined {priority : Bool} {c : Context} (h : earlyUndefined priority c = true) :
    el3TrapArmed c = true := by
  simp only [earlyUndefined, Bool.and_eq_true] at h
  obtain ⟨⟨⟨⟨⟨-, hHave⟩, -⟩, -⟩, hAArch64⟩, hTda⟩ := h
  simp [el3TrapArmed, hHave, hAArch64, hTda]

/-- Test 1 before the tail of EL1 and EL2 adds nothing to what the tail forbids. -/
theorem not_earlyUndefined_and_el3TrapCheck {priority : Bool} {c : Context} :
    ¬ earlyUndefined priority c = true ∧ el3TrapCheck c = none ↔ el3TrapCheck c = none :=
  and_iff_right_of_imp fun htail hearly =>
    (el3TrapCheck_eq_none.mp htail).1 (el3TrapArmed_of_earlyUndefined hearly)

theorem accessCheck_el2_eq_none {priority : Bool} {c : Context} :
    accessCheck priority c .el2 = none ↔ el3TrapCheck c = none :=
  ite_fault_eq_none.trans not_earlyUndefined_and_el3TrapCheck

theorem accessCheck_el1_eq_none {priority : Bool} {c : Context} :
    accessCheck priority c .el1 = none ↔
      ¬ (c.el2Enabled = true ∧ c.el2UsingAArch32 = false ∧ (c.mdcrEl2Tde = true ∨ c.mdcrEl2Tda = true))
      ∧ ¬ (c.el2Enabled = true ∧ c.el2UsingAArch32 = true ∧ (c.hdcrTde = true ∨ c.hdcrTda = true))
      ∧ el3TrapCheck c = none := by
  rw [← not_earlyUndefined_and_el3TrapCheck (priority := priority)]
  simp only [accessCheck, ite_fault_eq_none, Bool.and_eq_true, Bool.or_eq_true, Bool.not_eq_true', and_assoc]
  tauto

/-- The check of a level finds nothing exactly where `LevelAllows` says so, whatever the parameter
EL3_TRAP_PRIORITY_WHEN_SDD is. -/
theorem accessCheck_eq_none {priority : Bool} {c : Context} {el : EL} :
    accessCheck priority c el = none ↔ LevelAllows c el := by
  cases el with
  | el0 => simp [LevelAllows, accessCheck]
  | el1 =>
    simp [LevelAllows, accessCheck_el1_eq_none, el3TrapCheck_eq_none, el3TrapArmed_iff, haltCheck_eq_none, and_assoc]
  | el2 => simp [LevelAllows, accessCheck_el2_eq_none, el3TrapCheck_eq_none, el3TrapArmed_iff, haltCheck_eq_none]
  | el3 => simp [LevelAllows, accessCheck, haltCheck_eq_none]

/-- Settles O16: the existence checks of R68, then the tests of each level. -/
theorem accessSucceedsExactlyWhenAllowed : Obligations.AccessSucceedsExactlyWhenAllowed := by
  intro s n
  rw [access_eq_none, stateCheck, accessCheck_eq_none]

/-! ### Where AArch32 is supported nowhere -/

/-- An outcome of the access check other than Proceed is what an instruction of an admitted form raises. -/
theorem exec_eq_fault_of_access {i : Instr} {s : State} {f : Fault} (hw : WellFormed i = true)
    (ha : access s i.index = some f) : exec i s = .fault f := by
  obtain ⟨ht, he⟩ := exec_wellFormed s hw
  rw [he]
  cases i.dir with
  | read => exact checked_eq_fault.mpr ha
  | write => exact checked_eq_fault.mpr ha

theorem access_of_not_haveAnyAArch32 {s : State} (n : Fin 16) (h : s.impl.haveAnyAArch32 = false) :
    access s n = some .undefined := by
  simp [access, h]

/-- Settles O8: the first of the existence checks of R68. -/
theorem accessWithoutAArch32IsUndefined : Obligations.AccessWithoutAArch32IsUndefined :=
  fun i _ hw h => exec_eq_fault_of_access hw (access_of_not_haveAnyAArch32 i.index h)

/-! ### What no step changes -/

@[simp] theorem keepConfig_haveEL3 (old new : Context) : (keepConfig old new).haveEL3 = old.haveEL3 := rfl

/-- No input changes the parameters, HaveEL3 (log 20) or the program text. -/
theorem applyInput_keeps_configuration_and_text (i : Input) (s : State) :
    (applyInput i s).impl = s.impl ∧ (applyInput i s).ctx.haveEL3 = s.ctx.haveEL3
      ∧ (applyInput i s).mem = s.mem := by
  cases i with
  | coldReset l => simp
  | warmReset l => simp
  | viewWrite view n w =>
    rw [applyInput_viewWrite]
    split
    · simp
    · simp
  | contextChange c => simp
  | companionChange c => simp

/-- No instruction changes the parameters, the context or the program text. -/
theorem exec_next_keeps_configuration_and_text {i : Instr} {s u : State} (h : exec i s = .next u) :
    u.impl = s.impl ∧ u.ctx = s.ctx ∧ u.mem = s.mem := by
  obtain ⟨-, -, ht, ⟨-, rfl⟩ | ⟨-, rfl⟩⟩ := exec_next h
  · simp
  · simp

/-- Settles O45: by the two kinds of step, an input or an instruction. -/
theorem stepKeepsConfigurationAndText : Obligations.StepKeepsConfigurationAndText := by
  intro s t h
  obtain ⟨i, rest, -, rfl⟩ | ⟨-, -, i, u, -, hu, rfl⟩ := step_next h
  · obtain ⟨himpl, hEL3, hmem⟩ := applyInput_keeps_configuration_and_text i { s with inputs := rest }
    exact ⟨himpl, hEL3, fun a => by rw [hmem]⟩
  · obtain ⟨himpl, hctx, hmem⟩ := exec_next_keeps_configuration_and_text hu
    exact ⟨by simp [himpl], by simp [hctx], fun a => by simp [hmem]⟩

end Sys2Proof.Machine

/-! PROOFS. 10_state.md: the fields of DBGBCR<n> and what they stand for (R8 to R39), what a step changes of the
state (R7, R40, R41), and that what the rules call ignored has no effect on an event (R9 to R12, R30, R36). -/

namespace Sys2Proof.Machine

/-! ### The masks (R8) -/

/-- Settles O26: unpacking loses nothing, and each mask is all ones in its fields and 0 in the others. -/
theorem fieldsAreTheWholeRegister : Obligations.FieldsAreTheWholeRegister := by
  refine ⟨fun v w => unpack_injective, fun v => ?_⟩
  have hres0 : unpack 0xFF001E18#32 = ⟨.allOnes 8, 0, 0, 0, 0, .allOnes 4, 0, .allOnes 2, 0, 0⟩ := by decide
  have hbt : unpack 0x00F00000#32 = ⟨0, .allOnes 4, 0, 0, 0, 0, 0, 0, 0, 0⟩ := by decide
  have hlbn : unpack 0x000F0000#32 = ⟨0, 0, .allOnes 4, 0, 0, 0, 0, 0, 0, 0⟩ := by decide
  have hssc : unpack 0x0000C000#32 = ⟨0, 0, 0, .allOnes 2, 0, 0, 0, 0, 0, 0⟩ := by decide
  have hhmc : unpack 0x00002000#32 = ⟨0, 0, 0, 0, .allOnes 1, 0, 0, 0, 0, 0⟩ := by decide
  have hbas : unpack 0x000001E0#32 = ⟨0, 0, 0, 0, 0, 0, .allOnes 4, 0, 0, 0⟩ := by decide
  have hpmc : unpack 0x00000006#32 = ⟨0, 0, 0, 0, 0, 0, 0, 0, .allOnes 2, 0⟩ := by decide
  have he : unpack 0x00000001#32 = ⟨0, 0, 0, 0, 0, 0, 0, 0, 0, .allOnes 1⟩ := by decide
  simp only [unpack_and, hres0, hbt, hlbn, hssc, hhmc, hbas, hpmc, he, BitVec.and_allOnes, BitVec.ofNat_eq_ofNat,
    BitVec.and_zero, and_self]

/-! ### BT (R13, R30) -/

theorem btClass_eq_addressMatch {bt : BitVec 4} : btClass bt = .addressMatch ↔ bt = 0b0000#4 ∨ bt = 0b0001#4 := by
  revert bt
  decide

theorem btClass_eq_addressMismatch {bt : BitVec 4} :
    btClass bt = .addressMismatch ↔ bt = 0b0100#4 ∨ bt = 0b0101#4 := by
  revert bt
  decide

/-- The linked address types are 0b0001 and 0b0101 (R30, 92 D12). -/
theorem linkedTo_eq (f : Fields) :
    linkedTo f = if f.bt = 0b0001#4 ∨ f.bt = 0b0101#4 then some f.lbn.toFin else none := by
  have h : ∀ bt : BitVec 4,
      (btClass bt ≠ .contextMatching ∧ linked bt = true) ↔ bt = 0b0001#4 ∨ bt = 0b0101#4 := by decide
  simp only [linkedTo, h]

/-! ### BAS (R34 to R36) -/

theorem basPermitted_addressMatch {bas : BitVec 4} :
    basPermitted .addressMatch bas = true ↔ bas = 0b0011#4 ∨ bas = 0b1100#4 ∨ bas = 0b1111#4 := by
  revert bas
  decide

theorem basPermitted_addressMismatch {bas : BitVec 4} :
    basPermitted .addressMismatch bas = true ↔
      bas = 0b0000#4 ∨ bas = 0b0011#4 ∨ bas = 0b1100#4 ∨ bas = 0b1111#4 := by
  revert bas
  decide

@[simp] theorem basPermitted_contextMatching (bas : BitVec 4) : basPermitted .contextMatching bas = true := rfl

/-- Settles O27, from the tables of BT and BAS above. -/
theorem classesOfBtAndBas : Obligations.ClassesOfBtAndBas := fun f _ bas =>
  ⟨btClass_eq_addressMatch, btClass_eq_addressMismatch, linkedTo_eq f, basPermitted_addressMatch,
    basPermitted_addressMismatch, basPermitted_contextMatching bas⟩

/-! ### What a read returns, field by field (R38) -/

section ReadFields

variable {p : Implementation} {n : Fin 16} {f d : Fields}

@[simp] theorem readFields_e : (readFields p n f d).e = f.e := rfl

theorem readFields_bt : (readFields p n f d).bt = if btPermitted p n f.bt then f.bt else d.bt := rfl

theorem readFields_lbn : (readFields p n f d).lbn = if f.bt = 0b0001#4 then f.lbn else d.lbn := rfl

theorem readFields_exec_permitted (h : execPermitted p f = true) :
    (readFields p n f d).ssc = f.ssc ∧ (readFields p n f d).hmc = f.hmc ∧ (readFields p n f d).pmc = f.pmc := by
  simp [readFields, h]

theorem readFields_exec_reserved (h : execPermitted p f = false) :
    (readFields p n f d).ssc = d.ssc ∧ (readFields p n f d).hmc = d.hmc ∧ (readFields p n f d).pmc = d.pmc := by
  simp [readFields, h]

theorem readFields_bas_address (h : btClass f.bt ≠ .contextMatching) :
    (readFields p n f d).bas = if basPermitted (btClass f.bt) f.bas then f.bas else d.bas := by
  simp [readFields, h]

theorem readFields_bas_context (h : btClass f.bt = .contextMatching) :
    (readFields p n f d).bas = f.bas ||| d.bas := by
  simp [readFields, h, res1]

theorem readFields_bas_reserved (h : basPermitted (btClass f.bt) f.bas = false) :
    (readFields p n f d).bas = d.bas := by
  have hcls : btClass f.bt ≠ .contextMatching := by
    intro hc
    simp [hc] at h
  simp [readFields_bas_address hcls, h]

theorem readFields_res0 :
    (readFields p n f d).res31 = res0 p.res0Stores f.res31 d.res31
      ∧ (readFields p n f d).res12 = res0 p.res0Stores f.res12 d.res12
      ∧ (readFields p n f d).res4 = res0 p.res0Stores f.res4 d.res4 :=
  ⟨rfl, rfl, rfl⟩

end ReadFields

/-- What a completed MRC leaves in its x[t], and that the bank, the companion registers, the context and the level
stay. -/
theorem exec_next_read {i : Instr} {s s' : State} (hd : i.dir = .read) (h : exec i s = .next s') :
    ∃ ht : i.rt.val < 15, s'.x[i.rt.val]'ht = readDbgbcr i.index s
      ∧ s'.dbgbcr = s.dbgbcr ∧ s'.companion = s.companion ∧ s'.ctx = s.ctx ∧ s'.el = s.el := by
  obtain ⟨-, -, ht, ⟨-, rfl⟩ | ⟨hw, -⟩⟩ := exec_next h
  · exact ⟨ht, by simp⟩
  · simp [hd] at hw

/-- Settles O22: the value read has the fields `readFields` names, and those are taken one by one. -/
theorem readReturnsEveryField : Obligations.ReadReturnsEveryField := by
  rintro i s s' n hd rfl h hknown
  obtain ⟨ht, hx, hbank, hcomp, hctx, hel⟩ := exec_next_read hd h
  refine ⟨ht, ?_⟩
  have hread : unpack (s'.x[i.rt.val]'ht)
      = readFields s.impl i.index (unpack s.dbgbcr[i.index]) (unpack (Config.freeWord s.draws)) := by
    rw [hx, readDbgbcr, hknown, unpack_readValue_known]
  simp only [hread]
  refine ⟨hbank, hcomp, hctx, hel, readFields_e, ?_, ?_, ?_, ?_, readFields_exec_permitted,
    readFields_exec_reserved, ?_, readFields_bas_reserved, readFields_bas_context, ?_, ?_, ?_⟩
  · exact fun hbt => readFields_bt.trans (if_pos hbt)
  · exact fun hbt => readFields_bt.trans (if_neg (ne_true_of_eq_false hbt))
  · exact fun hbt => readFields_lbn.trans (if_pos hbt)
  · exact fun hbt => readFields_lbn.trans (if_neg hbt)
  · exact fun hcls hbas => (readFields_bas_address hcls).trans (if_pos hbas)
  all_goals
    intro hstores
    simpa only [hstores, res0] using readFields_res0 (p := s.impl) (n := i.index)
      (f := unpack s.dbgbcr[i.index]) (d := unpack (Config.freeWord s.draws))

/-! ### What each type compares (R14 to R29) -/

section Comparisons

variable {s : State} {n : Fin 16}

theorem comparisons_addressMatch (h : baseType (unpack s.dbgbcr[n]).bt = .addressMatch) :
    comparisons s n = addressComparison .addressMatch (unpack s.dbgbcr[n]).bas s.companion.bvr[n] := by
  simp only [comparisons, h]

theorem comparisons_addressMismatch (h : baseType (unpack s.dbgbcr[n]).bt = .addressMismatch) :
    comparisons s n = addressComparison .addressMismatch (unpack s.dbgbcr[n]).bas s.companion.bvr[n] := by
  simp only [comparisons, h]

theorem comparisons_contextIdMatch (h : baseType (unpack s.dbgbcr[n]).bt = .contextIdMatch) :
    comparisons s n = [.contextId (Config.contextIdOf s.companion.bvr[n]) (contextTarget s)] := by
  simp only [comparisons, h]

theorem comparisons_contextidrEl1Match (h : baseType (unpack s.dbgbcr[n]).bt = .contextidrEl1Match) :
    comparisons s n = [.contextId (Config.contextIdOf s.companion.bvr[n]) s.companion.contextidr] := by
  simp only [comparisons, h]

theorem comparisons_vmidMatch (h : baseType (unpack s.dbgbcr[n]).bt = .vmidMatch) :
    comparisons s n = [.vmid (Config.vmidOf s.companion.bxvr[n]) s.companion.vttbrVmid] := by
  simp only [comparisons, h]

theorem comparisons_vmidContextIdMatch (h : baseType (unpack s.dbgbcr[n]).bt = .vmidContextIdMatch) :
    comparisons s n = [.contextId (Config.contextIdOf s.companion.bvr[n]) s.companion.contextidr,
      .vmid (Config.vmidOf s.companion.bxvr[n]) s.companion.vttbrVmid] := by
  simp only [comparisons, h]

theorem comparisons_contextidrEl2Match (h : baseType (unpack s.dbgbcr[n]).bt = .contextidrEl2Match) :
    comparisons s n
      = [.contextId (Config.contextId2Of s.companion.bxvr[n]) s.companion.contextidrEl2] := by
  simp only [comparisons, h]

theorem comparisons_fullContextIdMatch (h : baseType (unpack s.dbgbcr[n]).bt = .fullContextIdMatch) :
    comparisons s n = [.contextId (Config.contextIdOf s.companion.bvr[n]) s.companion.contextidr,
      .contextId (Config.contextId2Of s.companion.bxvr[n]) s.companion.contextidrEl2] := by
  simp only [comparisons, h]

end Comparisons

/-- Two BT values that differ in BT[0] only have one base type, the one the lower of them names. -/
theorem baseType_of_or {bt a b : BitVec 4} (h : bt = a ∨ bt = b) (hab : baseType b = baseType a) :
    baseType bt = baseType a := by
  obtain rfl | rfl := h
  · rfl
  · exact hab

/-- The Context ID of BT = 0b001x is compared with CONTEXTIDR_EL2 exactly under the condition R16 names. -/
theorem contextTarget_eq (s : State) :
    contextTarget s =
      if s.impl.haveVHE = true ∧ s.ctx.el2UsingAArch32 = false ∧ s.companion.effectiveE2H = true
        ∧ ((s.el = .el0 ∧ s.companion.hcrTge = true) ∨ s.el = .el2)
      then s.companion.contextidrEl2 else s.companion.contextidr := by
  simp [contextTarget, and_assoc]

/-- Settles O28: one comparison, with the target R16 selects. -/
theorem contextIdMatchSelectsItsTarget : Obligations.ContextIdMatchSelectsItsTarget := by
  intro s n hbt
  have hcompare := comparisons_contextIdMatch (baseType_of_or hbt (by decide))
  rw [contextTarget_eq] at hcompare
  refine ⟨?_, ?_, fun h => ?_, fun h => ?_⟩
  · obtain h | h := hbt <;> rw [h] <;> decide
  · obtain h | h := hbt <;> rw [h] <;> decide
  · rw [hcompare, if_pos h]
  · rw [hcompare, if_neg h]

/-- Settles O30: one case for each base type. -/
theorem contextTypesCompareTheirRegisters : Obligations.ContextTypesCompareTheirRegisters := by
  intro s n
  have hclass : ∀ bt : BitVec 4, bt = 0b0110#4 ∨ bt.extractLsb' 3 1 = 1#1 ∨ bt = 0b0111#4 →
      btClass bt = .contextMatching ∧ ¬ (bt = 0b0001#4 ∨ bt = 0b0101#4)
      ∧ (linked bt = true ↔
          bt = 0b0111#4 ∨ bt = 0b1001#4 ∨ bt = 0b1011#4 ∨ bt = 0b1101#4 ∨ bt = 0b1111#4) := by
    decide
  refine ⟨fun h => ?_, fun h => ?_, fun h => ?_, fun h => ?_, fun h => ?_, fun h => ?_⟩
  · obtain ⟨hcls, hlbn, hlinked⟩ := hclass _ h
    exact ⟨hcls, by rw [linkedTo_eq, if_neg hlbn], hlinked⟩
  · exact comparisons_contextidrEl1Match (baseType_of_or h (by decide))
  · exact comparisons_vmidMatch (baseType_of_or h (by decide))
  · exact comparisons_vmidContextIdMatch (baseType_of_or h (by decide))
  · exact comparisons_contextidrEl2Match (baseType_of_or h (by decide))
  · exact comparisons_fullContextIdMatch (baseType_of_or h (by decide))

/-! ### What an address type looks for (R34, R35) -/

/-- What BAS selects for an Address match type: halfword 0, halfword 2 or both. -/
theorem addressComparison_addressMatch (bvr : Nat) :
    addressComparison .addressMatch 0b0011#4 bvr = [.instructionAt bvr [bvr]]
      ∧ addressComparison .addressMatch 0b1100#4 bvr = [.instructionAt (bvr + 2) [bvr + 2]]
      ∧ addressComparison .addressMatch 0b1111#4 bvr = [.instructionAt bvr [bvr, bvr + 2]] :=
  ⟨rfl, rfl, rfl⟩

/-- What BAS selects for an Address mismatch type: as for a match, and anywhere for 0b0000. -/
theorem addressComparison_addressMismatch (bvr : Nat) :
    addressComparison .addressMismatch 0b0011#4 bvr = [.instructionStepped bvr [bvr]]
      ∧ addressComparison .addressMismatch 0b1100#4 bvr = [.instructionStepped (bvr + 2) [bvr + 2]]
      ∧ addressComparison .addressMismatch 0b1111#4 bvr = [.instructionStepped bvr [bvr, bvr + 2]]
      ∧ addressComparison .addressMismatch 0b0000#4 bvr = [.steppedAnywhere] :=
  ⟨rfl, rfl, rfl, rfl⟩

/-- R35: a mismatch type with BAS = 0b0000 makes the one comparison that exempts no address. -/
theorem comparisons_anywhere {s : State} {n : Fin 16}
    (hbt : (unpack s.dbgbcr[n]).bt = 0b0100#4 ∨ (unpack s.dbgbcr[n]).bt = 0b0101#4)
    (hbas : (unpack s.dbgbcr[n]).bas = 0b0000#4) : comparisons s n = [.steppedAnywhere] := by
  obtain ⟨-, -, -, hanywhere⟩ := addressComparison_addressMismatch s.companion.bvr[n]
  rw [comparisons_addressMismatch (baseType_of_or hbt (by decide)), hbas, hanywhere]

/-- Settles O29: the class and the linking of each address type, then what it looks for at each BAS. -/
theorem addressTypesLookAtTheHalfwordBasSelects : Obligations.AddressTypesLookAtTheHalfwordBasSelects := by
  intro s n bt bas a
  obtain ⟨hmatch0, hmatch2, hmatchBoth⟩ := addressComparison_addressMatch a
  obtain ⟨hstep0, hstep2, hstepBoth, hanywhere⟩ := addressComparison_addressMismatch a
  refine ⟨fun h => ?_, fun h => ?_, fun h => ?_, fun h => ?_⟩
  · have hfacts : ∀ b : BitVec 4, b = 0b0000#4 ∨ b = 0b0100#4 →
        linked b = false ∧ ¬ (b = 0b0001#4 ∨ b = 0b0101#4) := by decide
    obtain ⟨hlinked, hlbn⟩ := hfacts bt h
    exact ⟨hlinked, by rw [linkedTo_eq, if_neg hlbn]⟩
  · have hlinked : ∀ b : BitVec 4, b = 0b0001#4 ∨ b = 0b0101#4 → linked b = true := by decide
    exact ⟨hlinked bt h, by rw [linkedTo_eq, if_pos h]⟩
  · have hcompare : comparisons s n = addressComparison .addressMatch bas a :=
      comparisons_addressMatch (baseType_of_or h (by decide))
    exact ⟨btClass_eq_addressMatch.mpr h, fun hb => by rw [hcompare, hb, hmatch0],
      fun hb => by rw [hcompare, hb, hmatch2], fun hb => by rw [hcompare, hb, hmatchBoth]⟩
  · have hcompare : comparisons s n = addressComparison .addressMismatch bas a :=
      comparisons_addressMismatch (baseType_of_or h (by decide))
    exact ⟨btClass_eq_addressMismatch.mpr h, fun hb => by rw [hcompare, hb, hstep0],
      fun hb => by rw [hcompare, hb, hstep2], fun hb => by rw [hcompare, hb, hstepBoth],
      fun hb => by rw [hcompare, hb, hanywhere]⟩

/-- Settles O53: the one comparison made holds in every situation, and BT = 0b0100 is without linking. -/
theorem matchAnywhereExemptsNoAddress : Obligations.MatchAnywhereExemptsNoAddress := by
  intro s n hbas
  refine ⟨fun hbt place c hc => ?_, fun hbt pc iset el ctx => ?_⟩
  · rw [comparisons_anywhere hbt hbas, List.mem_singleton] at hc
    rw [hc]
    rfl
  · have hlink : linked (unpack s.dbgbcr[n]).bt = false := by rw [hbt]; decide
    have hcompare : comparisons { s with pc := pc, iset := iset, el := el, ctx := ctx } n = [.steppedAnywhere] :=
      comparisons_anywhere (.inl hbt) hbas
    rw [typeCond, hcompare, linkAllows, hlink]
    rfl

/-! ### A disabled breakpoint (R9, R37) -/

/-- Under WRITE_EFFECT (b) only the present value counts: a known value with E = 0 generates no event. -/
theorem mayFire_eq_false_of_disabled {s : State} {n : Fin 16} (hb : s.impl.writeEffect = .nextInstruction)
    (hknown : s.unknown[n] = false) (he : enabled s.dbgbcr[n] = false) : mayFire s n = false := by
  have hearlier : earlierValueMayAct s n = false := by
    rw [earlierValueMayAct, hb]
    rfl
  rw [mayFire, hknown, he, hearlier]
  simp

/-- Settles O34: the value written is known and has E = 0, so the event cannot be pending. -/
theorem disabledBreakpointIgnoresItsFields : Obligations.DisabledBreakpointIgnoresItsFields := by
  intro s n w hb he
  have hfire : mayFire (writeDbgbcr n w s) n = false :=
    mayFire_eq_false_of_disabled hb (by simp) (by simp [enabled, he])
  refine ⟨hfire, fun t ht hevent => ?_⟩
  obtain ⟨-, hpending⟩ := step_eq_event.mp (ht.trans hevent)
  obtain ⟨-, hfires⟩ := pendingEvent_eq_some.mp hpending
  simp [hfire] at hfires

/-! ### What a step changes of the state (R7, R40, R41) -/

/-- With an input pending, the step takes it. -/
theorem step_of_input {s : State} {i : Input} {rest : List Input} (h : s.inputs = i :: rest) :
    step s = .next (applyInput i { s with inputs := rest }) := by
  rw [step, h]

/-- Settles O54: the step is the input, and each of the two inputs is an update of one field. -/
theorem contextAndCompanionChangeAloneAsGiven : Obligations.ContextAndCompanionChangeAloneAsGiven :=
  fun _ _ => ⟨fun _ h => step_of_input h, fun _ h => step_of_input h⟩

/-- No instruction changes the context or the level. -/
theorem exec_next_keeps_ctx_and_el {i : Instr} {s u : State} (h : exec i s = .next u) :
    u.ctx = s.ctx ∧ u.el = s.el := by
  obtain ⟨-, -, ht, ⟨-, rfl⟩ | ⟨-, rfl⟩⟩ := exec_next h
  · simp
  · simp

/-- Settles O50: the facts are about the context and the level only. -/
theorem consistencyIsKeptByInstructions : Obligations.ConsistencyIsKeptByInstructions := by
  intro s t hin hs h
  obtain ⟨i, rest, hi, -⟩ | ⟨-, -, i, u, -, hu, rfl⟩ := step_next h
  · simp [hin] at hi
  · obtain ⟨hctx, hel⟩ := exec_next_keeps_ctx_and_el hu
    simpa [ArmConsistent, hctx, hel] using hs

/-! ### What changes the bank -/

/-- A write of DBGBCR<m> changes no other register. -/
theorem eq_of_writeDbgbcr_dbgbcr_ne {m n : Fin 16} {w : Word} {s : State}
    (h : (writeDbgbcr m w s).dbgbcr[n] ≠ s.dbgbcr[n]) : m = n := by
  by_contra hne
  have hv : m.val ≠ n.val := fun e => hne (Fin.ext e)
  exact h (by simp [Vector.getElem_set_ne, hv])

/-- An input that changes DBGBCR<n> is a Cold reset, or a write of it through another view where breakpoint n is
implemented. -/
theorem applyInput_changes_bank {i : Input} {s : State} {n : Fin 16}
    (h : (applyInput i s).dbgbcr[n] ≠ s.dbgbcr[n]) :
    (∃ l, i = .coldReset l) ∨ (s.impl.implemented[n] = true ∧ ∃ v w, i = .viewWrite v n w) := by
  cases i with
  | coldReset l => exact .inl ⟨l, rfl⟩
  | warmReset l => simp at h
  | viewWrite v m w =>
    rw [applyInput_viewWrite] at h
    split at h
    · next himpl =>
      obtain rfl := eq_of_writeDbgbcr_dbgbcr_ne h
      exact .inr ⟨himpl, v, w, rfl⟩
    · simp at h
  | contextChange c => simp at h
  | companionChange c => simp at h

/-- An instruction that changes DBGBCR<n> is an MCR of it. -/
theorem exec_next_changes_bank {i : Instr} {s u : State} {n : Fin 16} (hu : exec i s = .next u)
    (h : u.dbgbcr[n] ≠ s.dbgbcr[n]) : i.dir = .write ∧ i.index = n := by
  obtain ⟨-, -, ht, ⟨-, rfl⟩ | ⟨hd, rfl⟩⟩ := exec_next hu
  · simp at h
  · exact ⟨hd, eq_of_writeDbgbcr_dbgbcr_ne h⟩

/-- An instruction completes above EL0 only, and on an implemented breakpoint. -/
theorem exec_next_implemented_and_level {i : Instr} {s u : State} (hu : exec i s = .next u) :
    s.impl.implemented[i.index] = true ∧ s.el ≠ .el0 := by
  obtain ⟨-, ha, -⟩ := exec_next hu
  obtain ⟨-, himpl, hcheck⟩ := access_eq_none.mp ha
  obtain ⟨hel, -⟩ := accessCheck_eq_none.mp hcheck
  exact ⟨himpl, hel⟩

/-- Settles O47: by the two kinds of step. -/
theorem bankIsWrittenByThreeMeansOnly : Obligations.BankIsWrittenByThreeMeansOnly := by
  intro s t n h hne
  obtain ⟨i, rest, hi, rfl⟩ | ⟨hin, -, i, u, hf, hu, rfl⟩ := step_next h
  · obtain ⟨l, rfl⟩ | ⟨himpl, v, w, rfl⟩ := applyInput_changes_bank (s := { s with inputs := rest }) hne
    · exact .inl ⟨l, rest, hi⟩
    · exact .inr (.inl ⟨by simp [NoOtherWriter, hi, noViewWrite], himpl, v, w, rest, hi⟩)
  · obtain ⟨hd, rfl⟩ := exec_next_changes_bank hu hne
    obtain ⟨himpl, hel⟩ := exec_next_implemented_and_level hu
    exact .inr (.inr ⟨hin, himpl, hel, i, hf, hd, rfl⟩)

/-! ### The draws (00_scope.md section 5) -/

/-- An MRC uses one draw, an MCR none. -/
theorem exec_next_draws {i : Instr} {s u : State} (hu : exec i s = .next u) :
    u.draws = s.draws + (if i.dir = .read then 1 else 0) := by
  obtain ⟨-, -, ht, ⟨hd, rfl⟩ | ⟨hd, rfl⟩⟩ := exec_next hu
  · simp [hd]
  · simp [hd]

/-- No input but a Cold reset uses a draw or changes the event asked for. -/
theorem applyInput_keeps_draws {i : Input} (s : State) (h : ∀ l, i ≠ .coldReset l) :
    (applyInput i s).draws = s.draws ∧ (applyInput i s).eventRequest = s.eventRequest := by
  cases i with
  | coldReset l => exact absurd rfl (h l)
  | warmReset l => simp
  | viewWrite v n w =>
    rw [applyInput_viewWrite]
    split
    · simp
    · simp
  | contextChange c => simp
  | companionChange c => simp

/-- Settles O51: an instruction's own draw, then the one for the event; a Cold reset's sixteen; no other. -/
theorem noDrawIsUsedTwice : Obligations.NoDrawIsUsedTwice := by
  intro s t h
  obtain ⟨i, rest, hi, rfl⟩ | ⟨hin, -, i, u, hf, hu, rfl⟩ := step_next h
  · refine ⟨fun _ hin => ?_, fun l rest' hl => ?_, fun j rest' hj hcold => ?_⟩
    · simp [hi] at hin
    · obtain ⟨rfl, -⟩ := List.cons.inj (hi.symm.trans hl)
      simp
    · obtain ⟨rfl, -⟩ := List.cons.inj (hi.symm.trans hj)
      exact applyInput_keeps_draws { s with inputs := rest } hcold
  · refine ⟨fun j _ hj => ?_, fun l rest hl => ?_, fun j rest hj => ?_⟩
    · obtain rfl : i = j := Except.ok.inj (hf.symm.trans hj)
      refine ⟨?_, by simp, fun hd => ?_⟩
      · rw [afterInstruction_draws, exec_next_draws hu]
        split <;> rfl
      · obtain ⟨ht, hx, -⟩ := exec_next_read hd hu
        exact ⟨ht, hx⟩
    · simp [hin] at hl
    · simp [hin] at hj

/-! ### What the rules call ignored has no effect (R9 to R12, R30, R36) -/

/-- The fields of two values agree, but for those that the rules call ignored in an enabled breakpoint. -/
structure SameFields (f g : Fields) : Prop where
  bt : g.bt = f.bt
  ssc : g.ssc = f.ssc
  hmc : g.hmc = f.hmc
  pmc : g.pmc = f.pmc
  bas : btClass f.bt ≠ .contextMatching → g.bas = f.bas
  lbn : f.bt = 0b0001#4 ∨ f.bt = 0b0101#4 → g.lbn = f.lbn

/-- Two values agree in what a breakpoint acts on: in E (R9), and where E is 1 in every field that is not ignored. -/
structure SameEffect (f g : Fields) : Prop where
  e : g.e = f.e
  fields : f.e = 1#1 → SameFields f g

theorem SameEffect.refl (f : Fields) : SameEffect f f :=
  ⟨rfl, fun _ => ⟨rfl, rfl, rfl, rfl, fun _ => rfl, fun _ => rfl⟩⟩

section OneValue

variable {f g : Fields}

theorem SameFields.linkedTo_eq (h : SameFields f g) : linkedTo g = linkedTo f := by
  rw [Machine.linkedTo_eq g, Machine.linkedTo_eq f, h.bt]
  split
  · next hbt => rw [h.lbn hbt]
  · rfl

theorem SameFields.execPermitted_eq (h : SameFields f g) (p : Implementation) :
    execPermitted p g = execPermitted p f := by
  simp only [execPermitted, h.hmc, h.ssc, h.pmc]

theorem SameFields.basPermitted_eq (h : SameFields f g) :
    basPermitted (btClass f.bt) g.bas = basPermitted (btClass f.bt) f.bas := by
  by_cases hcls : btClass f.bt = .contextMatching
  · simp [hcls]
  · rw [h.bas hcls]

/-- What linking is shown of LBN: that of the linked address types and no other. -/
theorem SameFields.shown_lbn_eq (h : SameFields f g) :
    (if (linkedTo f).isSome then g.lbn else 0) = if (linkedTo f).isSome then f.lbn else 0 := by
  rw [Machine.linkedTo_eq f]
  split
  · next hbt => rw [h.lbn hbt]
  · rfl

/-- What linking is shown of BAS: that of the address types and no other. -/
theorem SameFields.shown_bas_eq (h : SameFields f g) :
    (if btClass f.bt = .contextMatching then 0b1111#4 else g.bas)
      = if btClass f.bt = .contextMatching then 0b1111#4 else f.bas := by
  split
  · rfl
  · next hcls => rw [h.bas hcls]

theorem SameEffect.effectiveFields_eq (h : SameEffect f g) : effectiveFields g = effectiveFields f := by
  by_cases he : f.e = 1#1
  · have hf := h.fields he
    simp only [effectiveFields, h.e, he, hf.bt, hf.ssc, hf.hmc, hf.pmc, hf.linkedTo_eq, true_and, if_true,
      hf.shown_lbn_eq, hf.shown_bas_eq]
  · simp only [effectiveFields, h.e, he, false_and, if_false]

theorem SameEffect.enabled_eq {v w : Word} (h : SameEffect (unpack v) (unpack w)) : enabled w = enabled v := by
  rw [enabled, enabled, h.e]

theorem SameEffect.fields_of_enabled {v w : Word} (h : SameEffect (unpack v) (unpack w))
    (he : enabled v = true) : SameFields (unpack v) (unpack w) :=
  h.fields (eq_of_beq he)

end OneValue

section OneBreakpoint

variable {s : State} {bank : Vector Word 16} {n : Fin 16}

theorem SameFields.comparisons_eq (h : SameFields (unpack s.dbgbcr[n]) (unpack bank[n])) :
    comparisons { s with dbgbcr := bank } n = comparisons s n := by
  cases hb : baseType (unpack s.dbgbcr[n]).bt with
  | addressMatch | addressMismatch =>
    have hbas := h.bas (by simp only [btClass, hb]; decide)
    simp only [comparisons, h.bt, hb, hbas]
  | _ => simp only [comparisons, h.bt, hb, contextTarget]

theorem SameFields.execCond_eq (h : SameFields (unpack s.dbgbcr[n]) (unpack bank[n])) :
    execCond { s with dbgbcr := bank } n = execCond s n := by
  simp only [execCond, h.hmc, h.ssc, h.pmc]

theorem SameFields.openValueHeld_eq (h : SameFields (unpack s.dbgbcr[n]) (unpack bank[n])) :
    openValueHeld { s with dbgbcr := bank } n = openValueHeld s n := by
  simp only [openValueHeld, partnerUnknown, h.bt, h.linkedTo_eq, h.execPermitted_eq, h.basPermitted_eq]

theorem SameEffect.breakpointView_eq (h : SameEffect (unpack s.dbgbcr[n]) (unpack bank[n])) :
    breakpointView { s with dbgbcr := bank } n = breakpointView s n := by
  simp only [breakpointView, h.effectiveFields_eq, h.enabled_eq]
  split
  · next he => rw [(h.fields_of_enabled he).comparisons_eq]
  · rfl

end OneBreakpoint

section WholeBank

variable {s : State} {bank : Vector Word 16}
  (h : ∀ n : Fin 16, SameEffect (unpack s.dbgbcr[n]) (unpack bank[n])) (n : Fin 16)
include h

/-- Linking is shown the same of all sixteen breakpoints, so it allows the same. -/
theorem typeCond_eq_of_sameEffect (he : enabled s.dbgbcr[n] = true) :
    typeCond { s with dbgbcr := bank } n = typeCond s n := by
  have hf := (h n).fields_of_enabled he
  have hviews : breakpointView { s with dbgbcr := bank } = breakpointView s :=
    funext fun m => (h m).breakpointView_eq
  have hlink : linkAllows { s with dbgbcr := bank } n = linkAllows s n := by
    simp only [linkAllows, hf.bt, hf.linkedTo_eq, hviews, situation]
  simp only [typeCond, hf.comparisons_eq, hlink, situation]

theorem mayFire_eq_of_sameEffect : mayFire { s with dbgbcr := bank } n = mayFire s n := by
  cases he : enabled s.dbgbcr[n] with
  | false => simp only [mayFire, (h n).enabled_eq, he, Bool.false_and, earlierValueMayAct]
  | true =>
    have hf := (h n).fields_of_enabled he
    simp only [mayFire, (h n).enabled_eq, he, hf.openValueHeld_eq, hf.execCond_eq, typeCond_eq_of_sameEffect h n he,
      earlierValueMayAct]

theorem pendingEvent_eq_of_sameEffect : pendingEvent { s with dbgbcr := bank } = pendingEvent s :=
  Option.ext fun n => by simp only [pendingEvent_eq_some, mayFire_eq_of_sameEffect h n]

end WholeBank

/-- The mark of an enabled breakpoint (log 11) sees E only, so writes of values with one E differ in the register
alone. -/
theorem writeDbgbcr_eq_of_enabled_eq {v w : Word} (m : Fin 16) (s : State) (h : enabled w = enabled v) :
    writeDbgbcr m w s = { writeDbgbcr m v s with dbgbcr := s.dbgbcr.set m w } := by
  simp only [writeDbgbcr, h]

/-- Two values of the same effect, written to one register, leave every register with values of the same effect. -/
theorem SameEffect.of_write {v w : Word} (h : SameEffect (unpack v) (unpack w)) (m : Fin 16) (s : State)
    (n : Fin 16) : SameEffect (unpack (writeDbgbcr m v s).dbgbcr[n]) (unpack (s.dbgbcr.set m w)[n]) := by
  by_cases hn : m.val = n.val
  · simpa [Vector.getElem_set, hn] using h
  · simpa [Vector.getElem_set, hn] using SameEffect.refl (unpack s.dbgbcr[n])

/-- Settles O52: the two values have the same effect, and so have the banks they are written to. -/
theorem ignoredBitsHaveNoEffectOnEvents : Obligations.IgnoredBitsHaveNoEffectOnEvents := by
  intro s m v w f g he hfields
  have hsame : SameEffect f g := by
    refine ⟨he, fun hf => ?_⟩
    obtain ⟨hbt, hssc, hhmc, hpmc, hbas, hlbn⟩ := hfields hf
    exact ⟨hbt, hssc, hhmc, hpmc, hbas, hlbn⟩
  rw [writeDbgbcr_eq_of_enabled_eq m s hsame.enabled_eq]
  exact ⟨mayFire_eq_of_sameEffect (hsame.of_write m s), pendingEvent_eq_of_sameEffect (hsame.of_write m s)⟩

end Sys2Proof.Machine

/-! PROOFS. 20_memory.md: the step over the program text (R53), the write through another view (R45), and the
premise that no other agent writes the bank (R52). -/

namespace Sys2Proof.Machine

/-! ### The step over the program text (R53) -/

/-- Where no event is asked for, none is pending. -/
theorem pendingEvent_eq_none_of_no_request {s : State} (h : s.eventRequest = none) : pendingEvent s = none := by
  refine Option.eq_none_iff_forall_ne_some.mpr fun n hn => ?_
  obtain ⟨hr, -⟩ := pendingEvent_eq_some.mp hn
  simp [h] at hr

/-- The fetch gives the instruction that the bytes at the pc decode to. -/
theorem fetch_eq_ok_of_decode {s : State} {i : Instr} {rest : List Byte}
    (h : decode s.iset (Memory.readBytes s.mem s.pc 4) = .ok (i, rest)) : fetch s = .ok i :=
  congrArg (Except.map Prod.fst) h

section Step

variable {s : State} (hin : s.inputs = []) (hp : pendingEvent s = none)
include hin hp

/-- With no input and no event pending, the step is the instruction fetched and what follows every one. -/
theorem step_of_fetch_ok {i : Instr} (hf : fetch s = .ok i) : step s = onNext afterInstruction (exec i s) := by
  simp only [step, hin, hp, hf]

theorem step_of_fetch_error {why : Reject} (hf : fetch s = .error why) : step s = fetchFailed s why := by
  simp only [step, hin, hp, hf]

end Step

/-- Settles O35: one clause for each outcome of the instruction. -/
theorem stepRunsTheDecodedInstruction : Obligations.StepRunsTheDecodedInstruction := by
  intro s i rest hin hp hd
  rw [step_of_fetch_ok hin hp (fetch_eq_ok_of_decode hd)]
  refine ⟨fun t ht => ?_, fun f hf => ?_, fun r hr => ?_⟩
  · rw [ht]
    rfl
  · rw [hf]
    rfl
  · rw [hr]
    rfl

/-- Where no byte is listed at the pc, the fetch finds no byte. -/
theorem fetchBytes_eq_nil {s : State} (h : Memory.read s.mem s.pc = none) : fetchBytes s = [] := by
  simp only [fetchBytes, instrLength, Memory.readBytes, h]

/-- In neither instruction set is there an instruction of no bytes. -/
theorem decode_nil (set : InstrSet) : decode set [] = .error .truncated := by
  cases set with
  | a32 => rfl
  | t32 => rfl

/-- Settles O38: no byte is fetched, so the text is found to end at the pc itself. -/
theorem stepWithoutProgramTextFaults : Obligations.StepWithoutProgramTextFaults := by
  intro s hin hreq hnone
  have hbytes : fetchBytes s = [] := fetchBytes_eq_nil hnone
  have hfetch : fetch s = .error .truncated := by rw [fetch, hbytes, decode_nil]; rfl
  rw [step_of_fetch_error hin (pendingEvent_eq_none_of_no_request hreq) hfetch]
  simp only [fetchFailed, hbytes, List.length_nil, Nat.add_zero]

/-- A table number that decodes does so in the layout `tableSet` chooses for it (log 4). -/
theorem decode_of_decodeTableWord {nbits w : Nat} {i : Instr} (h : decodeTableWord nbits w = some i) :
    ∃ rest, decode (tableSet (tableWord nbits w)) (layoutBytes (tableSet (tableWord nbits w)) (tableWord nbits w))
      = .ok (i, rest) := by
  simp only [decodeTableWord] at h
  split at h
  · next j rest hd =>
    obtain rfl := Option.some.inj h
    exact ⟨rest, hd⟩
  · cases h

/-- The four bytes placed at the pc are the four bytes read there. -/
theorem readBytes_placeWord (s : State) (nbits w : Nat) :
    Memory.readBytes (placeWord s nbits w).mem (placeWord s nbits w).pc 4
      = layoutBytes (tableSet (tableWord nbits w)) (tableWord nbits w) := by
  rw [← layoutBytes_length (tableSet (tableWord nbits w)) (tableWord nbits w)]
  exact Memory.readBytes_writeBytes _ s.mem s.pc

/-- A word placed at the pc is fetched as the instruction its table number decodes to. -/
theorem fetch_placeWord {nbits w : Nat} {i : Instr} (s : State) (h : decodeTableWord nbits w = some i) :
    fetch (placeWord s nbits w) = .ok i := by
  obtain ⟨rest, hd⟩ := decode_of_decodeTableWord h
  refine fetch_eq_ok_of_decode (rest := rest) ?_
  rw [readBytes_placeWord, placeWord_iset, hd]

/-- Settles O37: the word is fetched as its instruction, and placing it leaves no input and no event before it. -/
theorem stepRunsThePlacedWord : Obligations.StepRunsThePlacedWord := fun s nbits w _ h =>
  step_of_fetch_ok (placeWord_inputs s nbits w)
    (pendingEvent_eq_none_of_no_request (placeWord_eventRequest s nbits w)) (fetch_placeWord s h)

/-! ### The write through another view (R45) -/

/-- A read of the register just written is R38's of the value written, which is known. -/
theorem readDbgbcr_writeDbgbcr_same (n : Fin 16) (w : Word) (s : State) :
    readDbgbcr n (writeDbgbcr n w s) = readValue s.impl n false w (Config.freeWord s.draws) := by
  simp [readDbgbcr]

/-- A write of DBGBCR<n> leaves every other register with its marks. -/
theorem writeDbgbcr_keeps_other {m n : Fin 16} (w : Word) (s : State) (h : m ≠ n) :
    (writeDbgbcr n w s).dbgbcr[m] = s.dbgbcr[m] ∧ (writeDbgbcr n w s).unknown[m] = s.unknown[m]
      ∧ (writeDbgbcr n w s).everEnabled[m] = s.everEnabled[m] := by
  have hv : n.val ≠ m.val := fun e => h (Fin.ext e.symm)
  simp [Vector.getElem_set_ne, hv]

/-- Settles O42: the write where breakpoint n is implemented, and no change where it is not (log 25). -/
theorem writeThroughAnotherViewIsRead : Obligations.WriteThroughAnotherViewIsRead := by
  intro s view n w rest hin
  rw [step_of_input hin, applyInput_viewWrite]
  split
  · next himpl =>
    refine ⟨_, rfl, fun m hm => writeDbgbcr_keeps_other w _ hm, rfl, rfl, rfl, rfl, rfl, rfl, rfl, rfl, rfl, rfl,
      rfl, rfl, fun hnot => absurd himpl (ne_true_of_eq_false hnot), fun _ => ⟨by simp, ?_⟩⟩
    rintro i u hd rfl hu
    obtain ⟨ht, hx, -⟩ := exec_next_read hd hu
    exact ⟨ht, hx.trans (readDbgbcr_writeDbgbcr_same i.index w _)⟩
  · next himpl =>
    exact ⟨_, rfl, fun m _ => ⟨rfl, rfl, rfl⟩, rfl, rfl, rfl, rfl, rfl, rfl, rfl, rfl, rfl, rfl, rfl, rfl,
      fun _ => ⟨rfl, rfl, rfl⟩, fun h => absurd h himpl⟩

/-! ### The premise NoOtherWriter (R52) -/

theorem noOtherWriter_iff {s : State} : NoOtherWriter s = true ↔
    (∀ i ∈ s.inputs, noViewWrite i = true) ∧ ∀ batch ∈ s.laterInputs, ∀ i ∈ batch, noViewWrite i = true := by
  simp [NoOtherWriter]

/-- What an input does leaves the inputs that come after it. -/
theorem applyInput_keeps_inputs (i : Input) (s : State) :
    (applyInput i s).inputs = s.inputs ∧ (applyInput i s).laterInputs = s.laterInputs := by
  cases i with
  | coldReset l => simp
  | warmReset l => simp
  | viewWrite view n w =>
    rw [applyInput_viewWrite]
    split
    · simp
    · simp
  | contextChange c => simp
  | companionChange c => simp

/-- No instruction changes what the outside is to do. -/
theorem exec_next_keeps_laterInputs {i : Instr} {s u : State} (h : exec i s = .next u) :
    u.laterInputs = s.laterInputs := by
  obtain ⟨-, -, ht, ⟨-, rfl⟩ | ⟨-, rfl⟩⟩ := exec_next h
  · simp
  · simp

/-- The inputs that arrive after an instruction are those of a batch to come, or none. -/
theorem mem_of_mem_headD_nil {α : Type} {batches : List (List α)} {i : α} (h : i ∈ batches.headD []) :
    ∃ batch ∈ batches, i ∈ batch := by
  cases batches with
  | nil => cases h
  | cons batch later => exact ⟨batch, List.mem_cons_self, h⟩

/-- Settles O56: an input taken is no longer pending, and an instruction moves one batch from later to pending. -/
theorem noOtherWriterHoldsThroughTheRun : Obligations.NoOtherWriterHoldsThroughTheRun := by
  intro s t hs h
  obtain ⟨hpending, hlater⟩ := noOtherWriter_iff.mp hs
  have hnone : ∀ v n w rest, s.inputs ≠ .viewWrite v n w :: rest := by
    intro v n w rest hin
    have hw : noViewWrite (.viewWrite v n w) = true := hpending _ (by simp [hin])
    cases hw
  refine ⟨noOtherWriter_iff.mpr ?_, hnone⟩
  obtain ⟨i, rest, hin, rfl⟩ | ⟨-, -, i, u, -, hu, rfl⟩ := step_next h
  · obtain ⟨hinputs, hbatches⟩ := applyInput_keeps_inputs i { s with inputs := rest }
    rw [hinputs, hbatches]
    exact ⟨fun j hj => hpending j (by simp [hin, hj]), hlater⟩
  · rw [afterInstruction_inputs, afterInstruction_laterInputs, exec_next_keeps_laterInputs hu]
    refine ⟨fun j hj => ?_, fun batch hb => hlater batch (List.mem_of_mem_tail hb)⟩
    obtain ⟨batch, hb, hj⟩ := mem_of_mem_headD_nil hj
    exact hlater batch hb j hj

end Sys2Proof.Machine

/-! PROOFS. 30_encoding.md: the decoder, the encoder and the assembler line (R54 to R62), and the forms and the
encodings that are refused (R60 to R62). -/

namespace Sys2Proof

/-! ### The direction bit and the fields of an instruction -/

/-- Bit 20, L, of a direction: MRC has 1, MCR has 0 (R58). -/
def Dir.bit : Dir → BitVec 1
  | .read => 1#1
  | .write => 0#1

theorem Dir.bit_eq_ite (d : Dir) : d.bit = if d = .read then 1#1 else 0#1 := by
  cases d with
  | read => rfl
  | write => rfl

theorem Dir.bit_dirOf (w : Word) : (dirOf w).bit = w.extractLsb' 20 1 := by
  obtain h | h := BitVec.eq_zero_or_eq_one (w.extractLsb' 20 1)
  · rw [dirOf, h]
    rfl
  · rw [dirOf, h]
    rfl

theorem dirOf_eq_of_bit {w : Word} {d : Dir} (h : w.extractLsb' 20 1 = d.bit) : dirOf w = d := by
  rw [dirOf, h]
  cases d with
  | read => rfl
  | write => rfl

/-- Bits 31:28 of an instruction's word: the condition of an A32 form, 0b1110 in T32 (R58, R59). -/
def Instr.condBits : Instr → BitVec 4
  | .mrcA32 cond _ _ => cond
  | .mcrA32 cond _ _ => cond
  | .mrcT32 _ _ => 0b1110#4
  | .mcrT32 _ _ => 0b1110#4

theorem Instr.condBits_of_t32 {i : Instr} (h : i.set = .t32) : i.condBits = 0b1110#4 := by
  cases i with
  | mrcA32 => cases h
  | mcrA32 => cases h
  | mrcT32 => rfl
  | mcrT32 => rfl

/-- The four rows have one layout (R58, R59). -/
theorem encodeWord_eq_moveWord (i : Instr) :
    encodeWord i = moveWord i.condBits i.dir.bit (dbgbcrAt i.index) i.rt := by
  cases i <;> rfl

theorem makeInstr_of_fields (i : Instr) : makeInstr i.set i.dir i.condBits i.rt i.index = i := by
  cases i <;> rfl

section MakeInstr

variable (set : InstrSet) (d : Dir) (cond : BitVec 4) (t n : Fin 16)

@[simp] theorem makeInstr_set : (makeInstr set d cond t n).set = set := by cases set <;> cases d <;> rfl
@[simp] theorem makeInstr_dir : (makeInstr set d cond t n).dir = d := by cases set <;> cases d <;> rfl
@[simp] theorem makeInstr_rt : (makeInstr set d cond t n).rt = t := by cases set <;> cases d <;> rfl
@[simp] theorem makeInstr_index : (makeInstr set d cond t n).index = n := by cases set <;> cases d <;> rfl

variable {set cond}

theorem makeInstr_condBits (h : set = .t32 → cond = 0b1110#4) : (makeInstr set d cond t n).condBits = cond := by
  cases set with
  | a32 => cases d <;> rfl
  | t32 => rw [Instr.condBits_of_t32 (makeInstr_set ..), h rfl]

theorem encodeWord_makeInstr (h : set = .t32 → cond = 0b1110#4) :
    encodeWord (makeInstr set d cond t n) = moveWord cond d.bit (dbgbcrAt n) t := by
  rw [encodeWord_eq_moveWord, makeInstr_condBits d t n h, makeInstr_dir, makeInstr_rt, makeInstr_index]

end MakeInstr

/-! ### Words (R58, R59) -/

theorem isMove_iff {set : InstrSet} {w : Word} :
    isMove set w = true ↔ w.extractLsb' 24 4 = 0b1110#4 ∧ w.extractLsb' 4 1 = 1#1
      ∧ (set = .t32 → w.extractLsb' 28 4 = 0b1110#4) := by
  cases set <;> simp [isMove, and_assoc]

/-- An MRC or MCR word is nothing but its fields: the bits `isMove` tests are all that is beside them. -/
theorem moveWord_of_isMove {set : InstrSet} {w : Word} (h : isMove set w = true) :
    moveWord (w.extractLsb' 28 4) (w.extractLsb' 20 1) (coordinatesOf w) (rtOf w) = w := by
  obtain ⟨hopcode, hmove, -⟩ := isMove_iff.mp h
  rw [moveWord, ← hopcode, ← hmove]
  refine BitVec.eq_of_getLsbD_eq fun i hi => ?_
  simp only [coordinatesOf, rtOf, BitVec.ofFin_toFin, BitVec.getLsbD_append, BitVec.getLsbD_extractLsb']
  interval_cases i <;> simp

theorem decodeWord_eq_ok {set : InstrSet} {w : Word} {i : Instr} :
    decodeWord set w = .ok i ↔ isMove set w = true ∧ coordinatesOf w = dbgbcrAt (indexOf w)
      ∧ makeInstr set (dirOf w) (w.extractLsb' 28 4) (rtOf w) (indexOf w) = i := by
  unfold decodeWord
  split_ifs with hmove hc
  · simp [hmove, hc]
  · simp [hc]
  · simp [hmove]

section MoveWord

variable {set : InstrSet} {cond : BitVec 4} (h : set = .t32 → cond = 0b1110#4)
  (l : BitVec 1) (c : Coordinates) (t : Fin 16)
include h

theorem isMove_moveWord : isMove set (moveWord cond l c t) = true :=
  isMove_iff.mpr ⟨moveWord_opcode cond l c t, moveWord_move cond l c t, fun hs => by rw [moveWord_cond, h hs]⟩

/-- An MRC or MCR is decoded by its coordinates: those of a DBGBCR<n>, or another register's (R56, R62). -/
theorem decodeWord_moveWord : decodeWord set (moveWord cond l c t) =
    if c = dbgbcrAt c.crm.toFin then
      .ok (makeInstr set (dirOf (moveWord cond l c t)) cond t c.crm.toFin)
    else .error (.otherRegister c) := by
  have hindex : indexOf (moveWord cond l c t) = c.crm.toFin := by rw [indexOf, moveWord_crm]
  rw [decodeWord, if_pos (isMove_moveWord h l c t), moveWord_coordinates, hindex, moveWord_cond, moveWord_rt]

end MoveWord

theorem dirOf_encodeWord (i : Instr) : dirOf (encodeWord i) = i.dir :=
  dirOf_eq_of_bit (by rw [encodeWord_eq_moveWord, moveWord_dir])

/-- The word of an instruction carries a DBGBCR<n>'s coordinates, so it is decoded to that instruction. -/
theorem decodeWord_encodeWord (i : Instr) : decodeWord i.set (encodeWord i) = .ok i := by
  have hcoords : dbgbcrAt i.index = dbgbcrAt (dbgbcrAt i.index).crm.toFin := rfl
  rw [encodeWord_eq_moveWord, decodeWord_moveWord Instr.condBits_of_t32, if_pos hcoords,
    ← encodeWord_eq_moveWord, dirOf_encodeWord]
  exact congrArg Except.ok (makeInstr_of_fields i)

/-- A word is decoded to an instruction exactly when it is the word of that instruction, which is of the set. -/
theorem decodeWord_eq_ok_iff_encodeWord {set : InstrSet} {w : Word} {i : Instr} :
    decodeWord set w = .ok i ↔ i.set = set ∧ encodeWord i = w := by
  constructor
  · intro h
    obtain ⟨hmove, hc, rfl⟩ := decodeWord_eq_ok.mp h
    obtain ⟨-, -, hcond⟩ := isMove_iff.mp hmove
    refine ⟨makeInstr_set .., ?_⟩
    rw [encodeWord_makeInstr _ _ _ hcond, Dir.bit_dirOf, ← hc, moveWord_of_isMove hmove]
  · rintro ⟨rfl, rfl⟩
    exact decodeWord_encodeWord i

/-! ### Bytes (log 2) -/

/-- The first halfword of a T32 MRC or MCR marks a 32-bit instruction (R59). -/
theorem wide_of_isMove_t32 {w : Word} (h : isMove .t32 w = true) : w.extractLsb' 27 5 = 0b11101#5 := by
  obtain ⟨hopcode, -, hcond⟩ := isMove_iff.mp h
  have hsplit : w.extractLsb' 27 5 = w.extractLsb' 28 4 ++ (w.extractLsb' 24 4).extractLsb' 3 1 := by
    refine BitVec.eq_of_getLsbD_eq fun i hi => ?_
    simp only [BitVec.getLsbD_append, BitVec.getLsbD_extractLsb']
    interval_cases i <;> simp
  rw [hsplit, hopcode, hcond rfl]
  rfl

/-- The decoder reads the laid-out word of an MRC or MCR, in both instruction sets. -/
theorem decode_layout {set : InstrSet} {w : Word} (h : isMove set w = true) (rest : List Byte) :
    decode set (layoutBytes set w ++ rest) = (decodeWord set w).map fun i => (i, rest) := by
  cases set with
  | a32 => exact decode_layout_a32 w rest
  | t32 => exact decode_layout_t32 (wide_of_isMove_t32 h) rest

theorem layoutBytes_a32_append (b0 b1 b2 b3 : Byte) :
    layoutBytes .a32 (b3 ++ b2 ++ b1 ++ b0) = [b0, b1, b2, b3] := by
  simp (disch := omega) only [layoutBytes, BitVec.extractLsb'_append_eq_of_le,
    BitVec.extractLsb'_append_eq_of_add_le, Nat.reduceSub, BitVec.extractLsb'_eq_self]

theorem layoutBytes_t32_append (b0 b1 b2 b3 : Byte) :
    layoutBytes .t32 (b1 ++ b0 ++ b3 ++ b2) = [b0, b1, b2, b3] := by
  simp (disch := omega) only [layoutBytes, BitVec.extractLsb'_append_eq_of_le,
    BitVec.extractLsb'_append_eq_of_add_le, Nat.reduceSub, BitVec.extractLsb'_eq_self]

theorem map_pair_eq_ok {r : Except Reject Instr} {i : Instr} {rest rest' : List Byte}
    (h : (r.map fun j => (j, rest')) = .ok (i, rest)) : r = .ok i ∧ rest' = rest := by
  cases r with
  | error why => cases h
  | ok j =>
    cases h
    exact ⟨rfl, rfl⟩

/-- Bytes that decode are a laid-out word that decodes, and what is left. -/
theorem layout_of_decode {set : InstrSet} {bytes rest : List Byte} {i : Instr}
    (h : decode set bytes = .ok (i, rest)) :
    ∃ w, decodeWord set w = .ok i ∧ layoutBytes set w ++ rest = bytes := by
  unfold decode at h
  split at h
  · next b0 b1 b2 b3 tail =>
    obtain ⟨hw, rfl⟩ := map_pair_eq_ok h
    exact ⟨_, hw, by rw [layoutBytes_a32_append]; rfl⟩
  · cases h
  · next b0 b1 tail =>
    split at h
    · split at h
      · next b2 b3 tail =>
        obtain ⟨hw, rfl⟩ := map_pair_eq_ok h
        exact ⟨_, hw, by rw [layoutBytes_t32_append]; rfl⟩
      · cases h
    · cases h
  · cases h

/-- Settles O1: the laid-out word is read back, and a word is decoded to the instruction it is the word of. -/
theorem decodeOfEncodeIsTheInstruction : Obligations.DecodeOfEncodeIsTheInstruction := by
  intro i rest
  obtain ⟨hmove, -⟩ := decodeWord_eq_ok.mp (decodeWord_encodeWord i)
  rw [encode, decode_layout hmove, decodeWord_encodeWord]
  rfl

/-- Settles O2: the bytes are those of a word that decodes, and that word is the instruction's. -/
theorem encodeOfDecodeIsTheBytes : Obligations.EncodeOfDecodeIsTheBytes := by
  intro set bytes rest i h
  obtain ⟨w, hw, rfl⟩ := layout_of_decode h
  obtain ⟨rfl, rfl⟩ := decodeWord_eq_ok_iff_encodeWord.mp hw
  exact ⟨rfl, rfl⟩

/-! ### The rows of the opcode table (R58, R59) -/

/-- A field that the mask keeps whole is the field of the masked word. -/
theorem extractLsb'_eq_of_and_eq {w m v : Word} {start len : Nat} (h : w &&& m = v)
    (hm : m.extractLsb' start len = BitVec.allOnes len) : w.extractLsb' start len = v.extractLsb' start len := by
  rw [← h, BitVec.extractLsb'_and, hm, BitVec.and_allOnes]

/-- The A32 mask keeps every coordinate but CRm. -/
theorem coordinatesOf_of_and_eq {w v : Word} (h : w &&& 0x0FFF0FF0#32 = v) :
    coordinatesOf w = { coordinatesOf v with crm := w.extractLsb' 0 4 } := by
  simp only [coordinatesOf, Coordinates.mk.injEq]
  exact ⟨extractLsb'_eq_of_and_eq h (by decide), extractLsb'_eq_of_and_eq h (by decide),
    extractLsb'_eq_of_and_eq h (by decide), trivial, extractLsb'_eq_of_and_eq h (by decide)⟩

/-- A word that agrees with a row under the A32 mask has the fixed fields of the row: the opcode, L and the
coordinates. In T32 the four condition bits are fixed as well (R59). -/
theorem decodeWord_of_row {set : InstrSet} {d : Dir} {w : Word}
    (hrow : w &&& 0x0FFF0FF0#32 = moveWord 0 d.bit (dbgbcrAt 0) 0)
    (hcond : set = .t32 → w.extractLsb' 28 4 = 0b1110#4) :
    decodeWord set w = .ok (makeInstr set d (w.extractLsb' 28 4) (rtOf w) (indexOf w)) := by
  have hmove : isMove set w = true := isMove_iff.mpr
    ⟨(extractLsb'_eq_of_and_eq hrow (by decide)).trans (moveWord_opcode ..),
      (extractLsb'_eq_of_and_eq hrow (by decide)).trans (moveWord_move ..), hcond⟩
  have hdir : dirOf w = d :=
    dirOf_eq_of_bit ((extractLsb'_eq_of_and_eq hrow (by decide)).trans (moveWord_dir ..))
  have hcoords : coordinatesOf w = dbgbcrAt (indexOf w) := by
    rw [coordinatesOf_of_and_eq hrow, moveWord_coordinates]
    rfl
  exact decodeWord_eq_ok.mpr ⟨hmove, hcoords, by rw [hdir]⟩

/-- The T32 mask keeps the A32 mask's bits and the four condition bits. -/
theorem and_a32Mask_of_and_t32Mask {w v : Word} (h : w &&& 0xFFFF0FF0#32 = v) :
    w &&& 0x0FFF0FF0#32 = v &&& 0x0FFF0FF0#32 := by
  rw [← h, BitVec.and_assoc]
  rfl

theorem decodeWord_t32_of_row {d : Dir} {w : Word}
    (hrow : w &&& 0xFFFF0FF0#32 = moveWord 0b1110#4 d.bit (dbgbcrAt 0) 0) :
    decodeWord .t32 w = .ok (makeInstr .t32 d (w.extractLsb' 28 4) (rtOf w) (indexOf w)) := by
  refine decodeWord_of_row ((and_a32Mask_of_and_t32Mask hrow).trans ?_) fun _ =>
    (extractLsb'_eq_of_and_eq hrow (by decide)).trans (moveWord_cond ..)
  cases d with
  | read => rfl
  | write => rfl

theorem encodeWord_a32_in_row {i : Instr} (h : i.set = .a32) :
    encodeWord i &&& 0x0FFF0FF0#32 = 0x0E100EB0#32 ∨ encodeWord i &&& 0x0FFF0FF0#32 = 0x0E000EB0#32 := by
  cases i with
  | mrcA32 cond t n => exact .inl (Laws.RowMatch.mrcA32 cond t n)
  | mcrA32 cond t n => exact .inr (Laws.RowMatch.mcrA32 cond t n)
  | mrcT32 => cases h
  | mcrT32 => cases h

theorem encodeWord_t32_in_row {i : Instr} (h : i.set = .t32) :
    encodeWord i &&& 0xFFFF0FF0#32 = 0xEE100EB0#32 ∨ encodeWord i &&& 0xFFFF0FF0#32 = 0xEE000EB0#32 := by
  cases i with
  | mrcA32 => cases h
  | mcrA32 => cases h
  | mrcT32 t n => exact .inl (Laws.RowMatch.mrcT32 t n)
  | mcrT32 t n => exact .inr (Laws.RowMatch.mcrT32 t n)

/-- Settles O3: a word in a row has the row's fixed fields; a word that decodes is its instruction's word, which
lies in its row. -/
theorem decodeAcceptsExactlyTheRows : Obligations.DecodeAcceptsExactlyTheRows := by
  intro w
  refine ⟨fun h => decodeWord_of_row (d := .read) h nofun, fun h => decodeWord_of_row (d := .write) h nofun, ?_,
    fun h => decodeWord_t32_of_row (d := .read) h, fun h => decodeWord_t32_of_row (d := .write) h, ?_⟩
  · intro hread hwrite i hi
    obtain ⟨hset, rfl⟩ := decodeWord_eq_ok_iff_encodeWord.mp hi
    exact (encodeWord_a32_in_row hset).elim hread hwrite
  · intro hread hwrite i hi
    obtain ⟨hset, rfl⟩ := decodeWord_eq_ok_iff_encodeWord.mp hi
    exact (encodeWord_t32_in_row hset).elim hread hwrite

/-- Settles O4: each word is evaluated. -/
theorem wordsOfTheSpecDecode : Obligations.WordsOfTheSpecDecode := by
  unfold Obligations.WordsOfTheSpecDecode
  decide

/-- Settles O5: the word is an MRC or MCR, so its coordinates decide. -/
theorem otherCoordinatesAreRefusedByName : Obligations.OtherCoordinatesAreRefusedByName := by
  intro set cond l c t hcond hc
  rw [decodeWord_moveWord hcond, if_neg hc]

/-! ### The assembler line (R54, R55) -/

/-- What a line that is read has met: its coordinates are those of a DBGBCR<n>, and in T32 its condition is
always. -/
theorem assemble_eq_ok {set : InstrSet} {line : AsmLine} {i : Instr} (h : assemble set line = .ok i) :
    (⟨line.coproc, line.opc1, line.crn, line.crm, line.opc2.getD 0⟩ : Coordinates) = dbgbcrAt line.crm.toFin
      ∧ (set = .t32 → line.cond.getD condAlways = condAlways)
      ∧ makeInstr set line.dir (line.cond.getD condAlways) line.rt line.crm.toFin = i := by
  simp only [assemble] at h
  split_ifs at h with _ hc hcond
  exact ⟨not_not.mp hc, fun hset => not_not.mp fun hne => hcond ⟨hset, hne⟩, Except.ok.inj h⟩

/-- The line `MRC|MCR p14, 0, Rt, c0, c<n>, 5`. -/
theorem assemble_standard (set : InstrSet) (d : Dir) (t n : Fin 16) :
    assemble set ⟨d, none, none, 0b1110, 0, t, 0, BitVec.ofFin n, some 0b101⟩
      = .ok (makeInstr set d condAlways t n) := by
  simp [assemble, dbgbcrAt]

/-- Settles O6: the line's coordinates are those of the DBGBCR<n> its instruction names. -/
theorem assemblerLineGivesItsWord : Obligations.AssemblerLineGivesItsWord := by
  refine ⟨fun set line i h => ?_, fun set d t n => ?_⟩
  · obtain ⟨hc, hcond, rfl⟩ := assemble_eq_ok h
    refine ⟨makeInstr_set .., makeInstr_dir .., ?_⟩
    rw [encodeWord_makeInstr _ _ _ hcond, hc, Dir.bit_eq_ite]
  · exact ⟨_, assemble_standard set d t n, makeInstr_set .., makeInstr_dir .., makeInstr_rt .., makeInstr_index ..⟩

end Sys2Proof

namespace Sys2Proof.Machine

/-! ### The refused forms and encodings (R60 to R62, log 13) -/

theorem whenAlways_refused {cond : BitVec 4} (h : cond ≠ condAlways) (r : Host.Outcome State Fault Refusal) :
    whenAlways cond r = .refused (.conditionalForm cond) := by
  simp [whenAlways, condOk, h]

theorem whenAlways_always (r : Host.Outcome State Fault Refusal) : whenAlways condAlways r = r := by
  simp [whenAlways, condOk]

theorem withRt_fifteen (k : Fin 15 → Host.Outcome State Fault Refusal) :
    withRt 15 k = .refused .programCounterOperand :=
  withRt_refused (by decide) k

/-- Settles O17: the condition is looked at first, then the number of Rt. -/
theorem formsTheSpecRefusesAreRefused : Obligations.FormsTheSpecRefusesAreRefused := by
  intro cond t n s
  refine ⟨fun hcond => ⟨whenAlways_refused hcond _, whenAlways_refused hcond _⟩, ?_, ?_, ?_, ?_⟩
  · exact (whenAlways_always _).trans (withRt_fifteen fun r => readAccess n r s)
  · exact (whenAlways_always _).trans (withRt_fifteen fun r => writeAccess n r s)
  · exact withRt_fifteen fun r => readAccess n r s
  · exact withRt_fifteen fun r => writeAccess n r s

/-- The fetch fails for the reason the bytes at the pc decode to no instruction. -/
theorem fetch_eq_error_of_decode {s : State} {why : Reject}
    (h : decode s.iset (Memory.readBytes s.mem s.pc 4) = .error why) : fetch s = .error why :=
  congrArg (Except.map Prod.fst) h

theorem fetchFailed_of_ne_truncated {why : Reject} (s : State) (h : why ≠ .truncated) :
    fetchFailed s why = .refused (.otherEncoding why) := by
  cases why with
  | truncated => exact absurd rfl h
  | otherHalfword | otherInstruction | otherRegister | narrowQualifier | conditionInT32 => rfl

/-- Settles O55: the step is the failed fetch, which tells only truncated text apart. -/
theorem stepRefusesOtherEncodings : Obligations.StepRefusesOtherEncodings := by
  intro s why hin hp hd
  rw [step_of_fetch_error hin hp (fetch_eq_error_of_decode hd)]
  refine ⟨fetchFailed_of_ne_truncated s, ?_⟩
  rintro rfl
  rfl

end Sys2Proof.Machine

/-! PROOFS. 40_sysreg_access.md: the outcome of an access at each Exception level (R63 to R68), and what an MRC and an
MCR do and leave unchanged (R69 to R72). -/

namespace Sys2Proof.Machine

/-! ### The outcome of an instruction is the outcome of its access (R67) -/

section Outcome

variable {i : Instr} {s : State} (hw : WellFormed i = true)
include hw

/-- An instruction of an admitted form raises the outcome of its access, or completes. -/
theorem exec_eq_checked : ∃ k, exec i s = checked (access s i.index) k := by
  obtain ⟨ht, he⟩ := exec_wellFormed s hw
  rw [he]
  cases i.dir with
  | read => exact ⟨_, rfl⟩
  | write => exact ⟨_, rfl⟩

theorem exec_eq_fault {f : Fault} : exec i s = .fault f ↔ access s i.index = some f := by
  obtain ⟨k, hk⟩ := exec_eq_checked (s := s) hw
  rw [hk, checked_eq_fault]

theorem exec_completes : (∃ t, exec i s = .next t) ↔ access s i.index = none := by
  obtain ⟨k, hk⟩ := exec_eq_checked (s := s) hw
  simp [hk, checked_eq_next]

theorem exec_ne_refused (r : Refusal) : exec i s ≠ .refused r := by
  obtain ⟨k, hk⟩ := exec_eq_checked (s := s) hw
  rw [hk]
  exact checked_ne_refused

end Outcome

/-- Settles O13: each outcome is the access's, and the two accesses read the same. -/
theorem readAndWriteMeetTheSameOutcome : Obligations.ReadAndWriteMeetTheSameOutcome := by
  intro i j s s' hi hj hn himpl hctx hel hdraws
  have ha : access s' j.index = access s i.index := by rw [hn, access_congr j.index himpl hctx hel hdraws]
  exact ⟨fun f => by rw [exec_eq_fault hi, exec_eq_fault hj, ha], by rw [exec_completes hi, exec_completes hj, ha]⟩

/-! ### The existence checks (R68) -/

section Existence

variable {s : State} {n : Fin 16} (ha : s.impl.haveAnyAArch32 = true)
include ha

theorem access_of_implemented (hn : s.impl.implemented[n] = true) : access s n = stateCheck s := by
  simp only [access, ha, hn, Bool.not_true, Bool.false_eq_true, if_false, if_true]

theorem access_of_unimplemented_of_proceed (hn : s.impl.implemented[n] = false) (h : stateCheck s = none) :
    access s n = some .undefined := by
  simp [access, ha, hn, h]

/-- An outcome of the check and the Undefined of an unimplemented breakpoint: `unimplFirst` says which is first, and
where both are Undefined it makes no difference. -/
theorem access_of_unimplemented_of_outcome {o : Fault} (hn : s.impl.implemented[n] = false)
    (h : stateCheck s = some o) : access s n = some (if unimplFirst s then .undefined else o) := by
  by_cases ho : o = .undefined
  · simp [access, ha, hn, h, ho]
  · cases hfirst : unimplFirst s with
    | true => simp [access, ha, hn, h, hfirst]
    | false => simp [access, ha, hn, h, ho, hfirst]

end Existence

theorem unimplFirst_of_fixed {s : State} {b : Bool} (h : s.impl.unimplCheckFirst = some b) : unimplFirst s = b := by
  simp only [unimplFirst, h]

/-- Settles O14: without AArch32, with breakpoint n implemented, and with it not implemented. -/
theorem existenceChecksOfAnAccess : Obligations.ExistenceChecksOfAnAccess := by
  intro i s hw
  simp only [exec_eq_fault hw, exec_completes hw]
  refine ⟨access_of_not_haveAnyAArch32 i.index, fun ha hn => ?_, fun ha hn => ?_⟩
  · rw [access_of_implemented ha hn]
    exact ⟨fun o ho => ho, fun ho => ho⟩
  · refine ⟨access_of_unimplemented_of_proceed ha hn, fun o ho => ?_⟩
    rw [access_of_unimplemented_of_outcome ha hn ho]
    refine ⟨?_, fun hfirst => ?_, fun hfirst => ?_⟩
    · cases unimplFirst s with
      | true => exact .inr rfl
      | false => exact .inl rfl
    · rw [unimplFirst_of_fixed hfirst]
      rfl
    · rw [unimplFirst_of_fixed hfirst]
      rfl

/-! ### The tests of each level, in their order (R63 to R66) -/

theorem access_of_el0 {s : State} (n : Fin 16) (h : s.el = .el0) : access s n = some .undefined := by
  have hcheck : stateCheck s = some .undefined := by rw [stateCheck, h, accessCheck]
  simp [access, hcheck]

/-- Settles O7: at EL0 the check answers Undefined, and so does each existence check. -/
theorem accessAtEl0IsUndefined : Obligations.AccessAtEl0IsUndefined :=
  fun i _ hw h => exec_eq_fault_of_access hw (access_of_el0 i.index h)

section Tests

variable {priority : Bool} {c : Context}

theorem haltCheck_eq : haltCheck c =
    if c.oslk = false ∧ c.haltingAllowed = true ∧ c.edscrTda = true then some (.halt .softwareAccess) else none := by
  simp [haltCheck, and_assoc]

theorem el3TrapCheck_eq : el3TrapCheck c =
    if c.haveEL3 = true ∧ c.el3UsingAArch32 = false ∧ c.mdcrEl3Tda = true then
      if c.halted = true ∧ c.edscrSdd = true then some .undefined else some (.sysAccessTrap .el3 0x05)
    else haltCheck c := by
  simp only [el3TrapCheck, el3TrapArmed_iff, haltedSecureDisabled, Bool.and_eq_true, trapCode]

theorem earlyUndefined_iff : earlyUndefined priority c = true ↔
    c.halted = true ∧ c.haveEL3 = true ∧ c.edscrSdd = true ∧ priority = true ∧ c.el3UsingAArch32 = false
      ∧ c.mdcrEl3Tda = true := by
  simp [earlyUndefined, and_assoc]

/-- Where test 1 of R64 and R65 fires, the trap to EL3 would become Undefined as well. -/
theorem el3TrapCheck_of_earlyUndefined (h : earlyUndefined priority c = true) : el3TrapCheck c = some .undefined := by
  obtain ⟨hhalted, hEL3, hsdd, -, hAArch64, hTda⟩ := earlyUndefined_iff.mp h
  rw [el3TrapCheck_eq, if_pos ⟨hEL3, hAArch64, hTda⟩, if_pos ⟨hhalted, hsdd⟩]

theorem accessCheck_el1 : accessCheck priority c .el1 =
    if c.halted = true ∧ c.haveEL3 = true ∧ c.edscrSdd = true ∧ priority = true ∧ c.el3UsingAArch32 = false
        ∧ c.mdcrEl3Tda = true then some .undefined
    else if c.el2Enabled = true ∧ c.el2UsingAArch32 = false ∧ (c.mdcrEl2Tde = true ∨ c.mdcrEl2Tda = true) then
      some (.sysAccessTrap .el2 0x05)
    else if c.el2Enabled = true ∧ c.el2UsingAArch32 = true ∧ (c.hdcrTde = true ∨ c.hdcrTda = true) then
      some (.hypTrap 0x05)
    else el3TrapCheck c := by
  simp only [accessCheck, earlyUndefined_iff, Bool.and_eq_true, Bool.or_eq_true, Bool.not_eq_true', and_assoc, trapCode]

/-- At EL2 nothing stands between test 1 and the trap to EL3, so test 1 changes no outcome (R65). -/
theorem accessCheck_el2 : accessCheck priority c .el2 = el3TrapCheck c := by
  by_cases h : earlyUndefined priority c = true
  · rw [accessCheck, if_pos h, el3TrapCheck_of_earlyUndefined h]
  · rw [accessCheck, if_neg h]

end Tests

/-! What an instruction does whose access is decided by the last tests of the chain, which the levels share. -/

section SharedTests

variable {i : Instr} {s : State} (hw : WellFormed i = true)
include hw

theorem exec_of_haltCheck (h : access s i.index = haltCheck s.ctx) :
    let halt : Prop := s.ctx.oslk = false ∧ s.ctx.haltingAllowed = true ∧ s.ctx.edscrTda = true
    (halt → exec i s = .fault (.halt .softwareAccess)) ∧ (¬ halt → ∃ t, exec i s = .next t) :=
  ⟨fun hh => exec_eq_fault_of_access hw (h.trans (haltCheck_eq.trans (if_pos hh))),
    fun hh => (exec_completes hw).mpr (h.trans (haltCheck_eq.trans (if_neg hh)))⟩

theorem exec_of_el3TrapCheck (h : access s i.index = el3TrapCheck s.ctx) :
    let c := s.ctx
    let trap : Prop := c.haveEL3 = true ∧ c.el3UsingAArch32 = false ∧ c.mdcrEl3Tda = true
    let halt : Prop := c.oslk = false ∧ c.haltingAllowed = true ∧ c.edscrTda = true
    (trap → c.halted = true ∧ c.edscrSdd = true → exec i s = .fault .undefined)
    ∧ (trap → ¬ (c.halted = true ∧ c.edscrSdd = true) → exec i s = .fault (.sysAccessTrap .el3 0x05))
    ∧ (¬ trap → halt → exec i s = .fault (.halt .softwareAccess))
    ∧ (¬ trap → ¬ halt → ∃ t, exec i s = .next t) := by
  intro c trap halt
  have htrap := h.trans el3TrapCheck_eq
  have hrest : ¬ trap → _ := fun hnot => exec_of_haltCheck hw (htrap.trans (if_neg hnot))
  exact ⟨fun ht hsdd => exec_eq_fault_of_access hw (htrap.trans ((if_pos ht).trans (if_pos hsdd))),
    fun ht hsdd => exec_eq_fault_of_access hw (htrap.trans ((if_pos ht).trans (if_neg hsdd))),
    fun hnot => (hrest hnot).1, fun hnot => (hrest hnot).2⟩

end SharedTests

/-- Settles O9: the first three tests stand before the chain that EL1 and EL2 share. -/
theorem el1TestsInOrder : Obligations.El1TestsInOrder := by
  intro i s hw hel ha hn c test1 test2 test3 test4 test5
  have hcheck : access s i.index = accessCheck s.impl.el3TrapPriorityWhenSdd c .el1 := by
    rw [access_of_implemented ha hn, stateCheck, hel]
  have hchain := hcheck.trans accessCheck_el1
  have htail := fun n1 n2 n3 =>
    exec_of_el3TrapCheck hw (hchain.trans ((if_neg n1).trans ((if_neg n2).trans (if_neg n3))))
  refine ⟨fun t1 => ?_, fun n1 t2 => ?_, fun n1 n2 t3 => ?_, fun n1 n2 n3 => ?_, fun n1 n2 n3 => ?_,
    fun n1 n2 n3 => ?_, fun n1 n2 n3 => ?_⟩
  · exact exec_eq_fault_of_access hw (hchain.trans (if_pos t1))
  · exact exec_eq_fault_of_access hw (hchain.trans ((if_neg n1).trans (if_pos t2)))
  · exact exec_eq_fault_of_access hw (hchain.trans ((if_neg n1).trans ((if_neg n2).trans (if_pos t3))))
  all_goals
    obtain ⟨hundefined, htrap, hhalt, hsuccess⟩ := htail n1 n2 n3
    assumption

/-- Settles O10: the access is the chain that EL1 and EL2 share. -/
theorem el2TestsInOrder : Obligations.El2TestsInOrder := fun i s hw hel ha hn =>
  exec_of_el3TrapCheck hw (by rw [access_of_implemented ha hn, stateCheck, hel, accessCheck_el2])

/-- Settles O11: the access is the halt test. -/
theorem el3TestsTheHaltOnly : Obligations.El3TestsTheHaltOnly := fun i s hw hel ha hn =>
  exec_of_haltCheck hw (by rw [access_of_implemented ha hn, stateCheck, hel, accessCheck])

/-- Settles O12: with the parameter false test 1 never fires; where it fires with the parameter true, only the two
traps to EL2 can come before the Undefined of the trap to EL3. -/
theorem trapPriorityMattersOnlyOverTheEl2Traps : Obligations.TrapPriorityMattersOnlyOverTheEl2Traps := by
  intro c el hne
  cases el with
  | el0 => exact absurd rfl hne
  | el1 =>
    by_cases hearly : earlyUndefined true c = true
    · have htrue : accessCheck true c .el1 = some .undefined := if_pos hearly
      refine ⟨rfl, htrue, ?_⟩
      rw [htrue, accessCheck_el1, if_neg (by simp), el3TrapCheck_of_earlyUndefined hearly] at hne
      rw [accessCheck_el1, if_neg (by simp)]
      split_ifs at hne ⊢ with htrap hhyp
      · exact .inl rfl
      · exact .inr rfl
      · exact absurd rfl hne
    · have hnot : earlyUndefined false c = false := by simp [earlyUndefined]
      exact absurd (by simp only [accessCheck, hearly, hnot]) hne
  | el2 => exact absurd (accessCheck_el2.trans accessCheck_el2.symm) hne
  | el3 => exact absurd rfl hne

/-! ### The effect of the two instructions (R69, R70) -/

theorem access_eq_none_of_allowed {s : State} {n : Fin 16} (h : AccessAllowed s n) : access s n = none :=
  (accessSucceedsExactlyWhenAllowed s n).mpr h

/-- The number of a general register that exists, as an Rt, is admitted. -/
theorem withRt_castLE (t : Fin 15) (k : Fin 15 → Host.Outcome State Fault Refusal) :
    withRt (t.castLE (by decide)) k = k t :=
  withRt_eq t.isLt k

section Effect

variable {t : Fin 15} {n : Fin 16} {i : Instr} (s : State)

theorem exec_mrc (h : i = .mrcA32 condAlways (t.castLE (by decide)) n ∨ i = .mrcT32 (t.castLE (by decide)) n) :
    exec i s = readAccess n t s := by
  obtain rfl | rfl := h
  · exact (whenAlways_always _).trans (withRt_castLE t fun r => readAccess n r s)
  · exact withRt_castLE t fun r => readAccess n r s

theorem exec_mcr (h : i = .mcrA32 condAlways (t.castLE (by decide)) n ∨ i = .mcrT32 (t.castLE (by decide)) n) :
    exec i s = writeAccess n t s := by
  obtain rfl | rfl := h
  · exact (whenAlways_always _).trans (withRt_castLE t fun r => writeAccess n r s)
  · exact withRt_castLE t fun r => writeAccess n r s

end Effect

/-- Settles O18: the read access, with its outcome. -/
theorem mrcReadsTheRegisterIntoRt : Obligations.MrcReadsTheRegisterIntoRt := by
  intro s t n i hi
  rw [exec_mrc s hi]
  exact ⟨fun h => ⟨_, readAccess_next.mpr ⟨access_eq_none_of_allowed h, rfl⟩, rfl, rfl, rfl⟩,
    fun o ho => checked_eq_fault.mpr ho⟩

/-- Settles O19: the write access, with its outcome. -/
theorem mcrWritesRtToTheRegister : Obligations.McrWritesRtToTheRegister := by
  intro s t n i hi
  rw [exec_mcr s hi]
  exact ⟨fun h => ⟨_, writeAccess_next.mpr ⟨access_eq_none_of_allowed h, rfl⟩, rfl, rfl, rfl⟩,
    fun o ho => checked_eq_fault.mpr ho⟩

/-! ### What the two instructions leave (R71) -/

/-- Settles O20: the state after a read is three updates, of x[t], the count of draws and the pc. -/
theorem mrcFrame : Obligations.MrcFrame := by
  intro i s s' hd h
  obtain ⟨-, -, ht, ⟨-, rfl⟩ | ⟨hw, -⟩⟩ := exec_next h
  · exact ⟨fun u hu hne => Vector.getElem_set_ne ht hu hne.symm, rfl, rfl, rfl, rfl, rfl, rfl, rfl, rfl, rfl, rfl, rfl,
      fun _ => rfl⟩
  · simp [hd] at hw

/-- Settles O21: the state after a write is two updates, of DBGBCR<n> with its marks and the pc. -/
theorem mcrFrame : Obligations.McrFrame := by
  intro i s s' hd h
  obtain ⟨-, -, ht, ⟨hr, -⟩ | ⟨-, rfl⟩⟩ := exec_next h
  · simp [hd] at hr
  · exact ⟨fun m hm => writeDbgbcr_keeps_other _ s hm, rfl, rfl, rfl, rfl, rfl, rfl, rfl, rfl, rfl, rfl, fun _ => rfl⟩

/-- What both directions do alike: the pc advances; the companion registers and the instruction set stay. -/
theorem exec_next_pc_companion_iset {i : Instr} {s u : State} (h : exec i s = .next u) :
    u.pc = s.pc + 4 ∧ u.companion = s.companion ∧ u.iset = s.iset := by
  obtain ⟨-, -, ht, ⟨-, rfl⟩ | ⟨-, rfl⟩⟩ := exec_next h
  · simp
  · simp

/-- Settles O46: the instruction's frame, and then the next batch of inputs arrives. -/
theorem instructionStepKeepsTheRest : Obligations.InstructionStepKeepsTheRest := by
  intro s t hin h
  obtain ⟨i, rest, hi, -⟩ | ⟨-, -, i, u, hf, hu, rfl⟩ := step_next h
  · simp [hin] at hi
  · obtain ⟨hctx, hel⟩ := exec_next_keeps_ctx_and_el hu
    obtain ⟨hpc, hcomp, hiset⟩ := exec_next_pc_companion_iset hu
    have hlater := exec_next_keeps_laterInputs hu
    refine ⟨hctx, hcomp, hel, hiset, congrArg (·.headD []) hlater, congrArg List.tail hlater, hpc, i, hf,
      fun hd => ?_, fun hd => ?_⟩
    · obtain ⟨hx, -, hbank, -⟩ := mrcFrame i s u hd hu
      exact ⟨hbank, fun r hr => hx r.val r.isLt hr⟩
    · obtain ⟨hbank, hx, -⟩ := mcrFrame i s u hd hu
      exact ⟨hx, fun m hm => (hbank m hm).1⟩

/-- Settles O36: the encoding at the pc is fetched as its instruction, and the allowed access completes. -/
theorem stepCompletesTheEncodedAccess : Obligations.StepCompletesTheEncodedAccess := by
  intro s i hin hreq hset hw hbytes hallowed
  have hdecode : decode s.iset (Memory.readBytes s.mem s.pc 4) = .ok (i, []) := by
    rw [hbytes, hset, ← List.append_nil (encode i), decodeOfEncodeIsTheInstruction]
  obtain ⟨u, hu⟩ := (exec_completes hw).mpr (access_eq_none_of_allowed hallowed)
  obtain ⟨hpc, -, hiset⟩ := exec_next_pc_companion_iset hu
  obtain ⟨-, -, hmem⟩ := exec_next_keeps_configuration_and_text hu
  refine ⟨afterInstruction u, ?_, hpc, hiset, hmem⟩
  rw [step_of_fetch_ok hin (pendingEvent_eq_none_of_no_request hreq) (fetch_eq_ok_of_decode hdecode), hu]
  rfl

/-! ### A read after a write (R72) -/

section ReadBack

variable {p : Implementation} {n : Fin 16} {v d : Word}

/-- The mask of R72 for an address type cuts out every named field but LBN. -/
theorem readValue_and_address (h : AllPermitted p n v) (hcls : btClass (unpack v).bt ≠ .contextMatching) :
    readValue p n false v d &&& 0x00F0E1E7#32 = v &&& 0x00F0E1E7#32 := by
  obtain ⟨hbt, hexec, hbas⟩ := h
  obtain ⟨hssc, hhmc, hpmc⟩ := readFields_exec_permitted (n := n) (d := unpack d) hexec
  have hmask : unpack 0x00F0E1E7#32 =
      ⟨0, .allOnes 4, 0, .allOnes 2, .allOnes 1, 0, .allOnes 4, 0, .allOnes 2, .allOnes 1⟩ := by decide
  apply unpack_injective
  simp [unpack_and, hmask, unpack_readValue_known, hssc, hhmc, hpmc, readFields_bt, hbt,
    readFields_bas_address hcls, hbas]

/-- The mask of R72 for a Context matching type leaves out BAS as well. -/
theorem readValue_and_context (h : AllPermitted p n v) :
    readValue p n false v d &&& 0x00F0E007#32 = v &&& 0x00F0E007#32 := by
  obtain ⟨hbt, hexec, -⟩ := h
  obtain ⟨hssc, hhmc, hpmc⟩ := readFields_exec_permitted (n := n) (d := unpack d) hexec
  have hmask : unpack 0x00F0E007#32 =
      ⟨0, .allOnes 4, 0, .allOnes 2, .allOnes 1, 0, 0, 0, .allOnes 2, .allOnes 1⟩ := by decide
  apply unpack_injective
  simp [unpack_and, hmask, unpack_readValue_known, hssc, hhmc, hpmc, readFields_bt, hbt]

theorem readValue_and_lbn (h : (unpack v).bt = 0b0001#4) :
    readValue p n false v d &&& 0x000F0000#32 = v &&& 0x000F0000#32 := by
  have hmask : unpack 0x000F0000#32 = ⟨0, 0, .allOnes 4, 0, 0, 0, 0, 0, 0, 0⟩ := by decide
  apply unpack_injective
  simp [unpack_and, hmask, unpack_readValue_known, readFields_lbn, h]

end ReadBack

/-- Settles O24: the write changes nothing the second access checks, so the read completes, and it reads the value
written. -/
theorem readAfterWriteReturnsTheValueWritten : Obligations.ReadAfterWriteReturnsTheValueWritten := by
  intro i j s s1 hdi hdj hn hwj h
  obtain ⟨-, ha, ht, ⟨hr, -⟩ | ⟨-, rfl⟩⟩ := exec_next h
  · simp [hdi] at hr
  · have ha' : access (advancePc (writeDbgbcr i.index (getX ⟨i.rt.val, ht⟩ s) s)) j.index = none := by
      rw [hn]
      exact (access_congr i.index rfl rfl rfl rfl).trans ha
    obtain ⟨s2, h2⟩ := (exec_completes hwj).mpr ha'
    obtain ⟨hu, hx, -⟩ := exec_next_read hdj h2
    rw [hn] at hx
    have hread := hx.trans (readDbgbcr_writeDbgbcr_same i.index _ (advancePc s))
    refine ⟨ht, hu, s2, h2, hread, fun hp hcls => ?_, fun hp _ => ?_, fun hbt => ?_⟩
    · exact hread ▸ readValue_and_address hp hcls
    · exact hread ▸ readValue_and_context hp
    · exact hread ▸ readValue_and_lbn hbt

/-! ### A read and the other breakpoints (R69 (e)) -/

theorem withRt_eq_of_not_rtOk {t : Fin 16} (h : rtOk t = false)
    (k k' : Fin 15 → Host.Outcome State Fault Refusal) : withRt t k = withRt t k' := by
  have ht : ¬ t.val < 15 := of_decide_eq_false h
  rw [withRt_refused ht, withRt_refused ht]

theorem whenAlways_withRt_eq_of_not_ok {cond : BitVec 4} {t : Fin 16} (h : (condOk cond && rtOk t) = false)
    (k k' : Fin 15 → Host.Outcome State Fault Refusal) :
    whenAlways cond (withRt t k) = whenAlways cond (withRt t k') := by
  cases hcond : condOk cond with
  | false => simp [whenAlways, hcond]
  | true =>
    rw [hcond, Bool.true_and] at h
    rw [withRt_eq_of_not_rtOk h k k']

/-- A form the spec refuses is refused whatever the state is. -/
theorem exec_eq_of_not_wellFormed {i : Instr} (s t : State) (h : WellFormed i = false) : exec i s = exec i t := by
  cases i with
  | mrcA32 => exact whenAlways_withRt_eq_of_not_ok h _ _
  | mcrA32 => exact whenAlways_withRt_eq_of_not_ok h _ _
  | mrcT32 _ n => exact withRt_eq_of_not_rtOk h (fun r => readAccess n r s) (fun r => readAccess n r t)
  | mcrT32 _ n => exact withRt_eq_of_not_rtOk h (fun r => writeAccess n r s) (fun r => writeAccess n r t)

theorem readDbgbcr_writeDbgbcr_ne {m n : Fin 16} (w : Word) (s : State) (h : m ≠ n) :
    readDbgbcr n (writeDbgbcr m w s) = readDbgbcr n s := by
  obtain ⟨hbank, hunknown, -⟩ := writeDbgbcr_keeps_other w s h.symm
  rw [readDbgbcr, hbank, hunknown]
  rfl

/-- Settles O25: the access reads no register of the bank and the value read is of DBGBCR<n> alone; a refused form
looks at no state. -/
theorem readIsIndependentOfOtherBreakpoints : Obligations.ReadIsIndependentOfOtherBreakpoints := by
  intro i s m v hd hm s2
  cases hw : WellFormed i with
  | false =>
    rw [exec_eq_of_not_wellFormed s2 s hw]
    exact ⟨fun s' h => ⟨s', h, rfl, rfl⟩, fun _ h => h, fun _ h => h⟩
  | true =>
    have ha : access s2 i.index = access s i.index := access_congr i.index rfl rfl rfl rfl
    refine ⟨fun s' h => ?_, fun f h => ?_, fun r h => absurd h (exec_ne_refused hw r)⟩
    · obtain ⟨-, hnone, ht, ⟨-, rfl⟩ | ⟨hwr, -⟩⟩ := exec_next h
      · obtain ⟨s2', h2⟩ := (exec_completes hw).mpr (ha.trans hnone)
        obtain ⟨-, -, _, ⟨-, rfl⟩ | ⟨hwr, -⟩⟩ := exec_next h2
        · exact ⟨_, h2, by simp [s2, readDbgbcr_writeDbgbcr_ne v s hm], rfl⟩
        · simp [hd] at hwr
      · simp [hd] at hwr
    · rw [exec_eq_fault hw] at h ⊢
      rw [ha, h]

end Sys2Proof.Machine

/-! PROOFS. 60_exceptions.md: the outcomes of an access and where each is raised (R73 to R78), the Breakpoint debug
event (R80), and what stands of the Exception level (R84). -/

namespace Sys2Proof.Machine

/-! ### The event of a step, and the breakpoints that may fire (R80) -/

theorem mayFire_iff {s : State} {n : Fin 16} : mayFire s n = true ↔
    s.impl.haveAnyAArch32 = true ∧ s.impl.implemented[n] = true
      ∧ (s.unknown[n] = true
        ∨ (enabled s.dbgbcr[n] = true
          ∧ ((execCond s n = true ∧ typeCond s n = true) ∨ openValueHeld s n = true))
        ∨ earlierValueMayAct s n = true) := by
  simp only [mayFire, Bool.and_eq_true, Bool.or_eq_true, and_assoc, or_assoc, or_comm (a := openValueHeld s n = true)]

/-- The event ends a step exactly where it is asked for, with no input pending, of a breakpoint that may fire. -/
theorem step_eq_event_iff {s : State} {n : Fin 16} : step s = .fault (.breakpointDebugEvent n) ↔
    s.eventRequest = some n ∧ s.inputs = [] ∧ mayFire s n = true := by
  rw [step_eq_event, pendingEvent_eq_some, and_left_comm]

/-! ### No event while every breakpoint is disabled (R80, R91) -/

theorem mayFire_eq_false_of_allDisabled {s : State} (hb : s.impl.writeEffect = .nextInstruction)
    (hd : AllDisabled s) (n : Fin 16) : mayFire s n = false := by
  by_contra hfire
  obtain ⟨-, himpl, -⟩ := mayFire_iff.mp (eq_true_of_ne_false hfire)
  obtain ⟨hknown, he⟩ := hd n himpl
  exact hfire (mayFire_eq_false_of_disabled hb hknown he)

/-- A write of a value with E = 0 disables one breakpoint more, and leaves the others. -/
theorem allDisabled_writeDbgbcr {s : State} {n : Fin 16} {w : Word} (hd : AllDisabled s) (hw : enabled w = false) :
    AllDisabled (writeDbgbcr n w s) := by
  intro m himpl
  by_cases hm : m = n
  · subst hm
    simpa using hw
  · obtain ⟨hbank, hunknown, -⟩ := writeDbgbcr_keeps_other w s hm
    rw [hbank, hunknown]
    exact hd m himpl

theorem applyInput_keeps_allDisabled {i : Input} {s : State} (hd : AllDisabled s) (hcold : ∀ l, i ≠ .coldReset l)
    (hview : ∀ v n w, i = .viewWrite v n w → enabled w = false) : AllDisabled (applyInput i s) := by
  cases i with
  | coldReset l => exact absurd rfl (hcold l)
  | warmReset l => exact hd
  | viewWrite v n w =>
    rw [applyInput_viewWrite]
    split
    · exact allDisabled_writeDbgbcr hd (hview v n w rfl)
    · exact hd
  | contextChange c => exact hd
  | companionChange c => exact hd

theorem exec_next_keeps_allDisabled {i : Instr} {s u : State} (hd : AllDisabled s) (hu : exec i s = .next u)
    (hmcr : ∀ h : i.rt.val < 15, i.dir = .write → enabled (s.x[i.rt.val]'h) = false) : AllDisabled u := by
  obtain ⟨-, -, ht, ⟨-, rfl⟩ | ⟨hw, rfl⟩⟩ := exec_next hu
  · exact hd
  · exact allDisabled_writeDbgbcr (n := i.index) hd (hmcr ht hw)

/-- Settles O32: no breakpoint may fire, and both kinds of step keep every breakpoint disabled. -/
theorem noEventWhenEveryBreakpointIsDisabled : Obligations.NoEventWhenEveryBreakpointIsDisabled := by
  intro s hb hd
  refine ⟨fun m hevent => ?_, fun t h hcold hview hmcr => ?_⟩
  · obtain ⟨-, -, hfire⟩ := step_eq_event_iff.mp hevent
    simp [mayFire_eq_false_of_allDisabled hb hd m] at hfire
  · obtain ⟨himpl, -⟩ := stepKeepsConfigurationAndText s t h
    refine ⟨?_, by rw [himpl, hb]⟩
    obtain ⟨i, rest, hi, rfl⟩ | ⟨hin, -, i, u, hf, hu, rfl⟩ := step_next h
    · refine applyInput_keeps_allDisabled (s := { s with inputs := rest }) hd ?_ ?_
      · rintro l rfl
        exact hcold l rest hi
      · rintro v n w rfl
        exact hview v n w rest hi
    · have hdu : AllDisabled u := exec_next_keeps_allDisabled hd hu fun ht hw => hmcr i ht hin hf hw
      exact hdu

/-! ### The conditions of the event, spelled out (R80) -/

section Event

variable {s : State} {n : Fin 16}

theorem enabled_iff {v : Word} : enabled v = true ↔ (unpack v).e = 1#1 := beq_iff_eq

/-- A type without linking is held to its comparisons alone. -/
theorem typeCond_iff : typeCond s n = true ↔
    (∀ c ∈ comparisons s n, comparisonHolds (situation s) c = true)
      ∧ (linked (unpack s.dbgbcr[n]).bt = true →
        Config.linkCond n (linkedTo (unpack s.dbgbcr[n])) (Vector.ofFn (breakpointView s)) (situation s) = true) := by
  rw [typeCond, Bool.and_eq_true, List.all_eq_true, linkAllows]
  cases linked (unpack s.dbgbcr[n]).bt <;> simp

theorem partnerUnknown_iff : partnerUnknown s n = true ↔
    ((unpack s.dbgbcr[n]).bt = 0b0001#4 ∨ (unpack s.dbgbcr[n]).bt = 0b0101#4)
      ∧ s.unknown[(unpack s.dbgbcr[n]).lbn.toFin] = true := by
  by_cases hbt : (unpack s.dbgbcr[n]).bt = 0b0001#4 ∨ (unpack s.dbgbcr[n]).bt = 0b0101#4
  · rw [partnerUnknown, linkedTo_eq, if_pos hbt, and_iff_right hbt]
  · rw [partnerUnknown, linkedTo_eq, if_neg hbt]
    exact iff_of_false Bool.false_ne_true fun ⟨h, _⟩ => hbt h

/-- The grounds on which the behaviour of a breakpoint is in no source (92 D20, 93 U11, log 26, log 27). -/
theorem openValueHeld_iff : openValueHeld s n = true ↔
    btPermitted s.impl n (unpack s.dbgbcr[n]).bt = false
      ∨ execPermitted s.impl (unpack s.dbgbcr[n]) = false
      ∨ basPermitted (btClass (unpack s.dbgbcr[n]).bt) (unpack s.dbgbcr[n]).bas = false
      ∨ ((unpack s.dbgbcr[n]).bt.extractLsb' 3 1 = 1#1
        ∧ ¬ (s.impl.haveEL2 = true ∧ s.impl.ctxCapable[n] = true))
      ∨ (((unpack s.dbgbcr[n]).bt = 0b0100#4 ∨ (unpack s.dbgbcr[n]).bt = 0b0101#4)
        ∧ Config.aarch32Stage1 s.draws = false)
      ∨ (((unpack s.dbgbcr[n]).bt = 0b0001#4 ∨ (unpack s.dbgbcr[n]).bt = 0b0101#4)
        ∧ s.unknown[(unpack s.dbgbcr[n]).lbn.toFin] = true) := by
  simp only [openValueHeld, readsBxvr, bxvrExists, Bool.or_eq_true, Bool.and_eq_true, Bool.not_eq_true',
    Bool.and_eq_false_iff, beq_iff_eq, btClass_eq_addressMismatch, partnerUnknown_iff, or_assoc, not_and_or,
    Bool.not_eq_true]

theorem earlierValueMayAct_iff : earlierValueMayAct s n = true ↔
    s.impl.writeEffect ≠ .nextInstruction ∧ s.everEnabled[n] = true := by
  simp only [earlierValueMayAct, Bool.and_eq_true, bne_iff_ne]

end Event

/-- Settles O31: the event asked for, of a breakpoint that may fire, with each condition spelled out. -/
theorem eventNeedsAnEnabledBreakpoint : Obligations.EventNeedsAnEnabledBreakpoint := by
  intro s n f conditions inNoSource
  have hconditions : execCond s n = true ∧ typeCond s n = true ↔ conditions := and_congr_right' typeCond_iff
  rw [step_eq_event_iff, mayFire_iff, enabled_iff, hconditions, openValueHeld_iff, earlierValueMayAct_iff]

/-- Settles O33: a value that is not known is ground enough for the event. -/
theorem eventIsPossibleWhileAValueIsUnknown : Obligations.EventIsPossibleWhileAValueIsUnknown :=
  fun _ _ hin ha hn hunknown hreq => step_eq_event_iff.mpr ⟨hreq, hin, mayFire_iff.mpr ⟨ha, hn, .inl hunknown⟩⟩

/-! ### The outcomes of an access (R73, R74) -/

theorem haltCheck_eq_some {c : Context} {f : Fault} (h : haltCheck c = some f) : f = .halt .softwareAccess := by
  rw [haltCheck_eq] at h
  split at h
  · cases h
    rfl
  · cases h

theorem el3TrapCheck_eq_some {c : Context} {f : Fault} (h : el3TrapCheck c = some f) :
    (f = .undefined ∧ c.halted = true ∧ c.edscrSdd = true ∧ c.haveEL3 = true ∧ c.el3UsingAArch32 = false
        ∧ c.mdcrEl3Tda = true)
      ∨ f = .sysAccessTrap .el3 0x05 ∨ f = .halt .softwareAccess := by
  rw [el3TrapCheck_eq] at h
  split_ifs at h with htrap hsdd
  · obtain ⟨hhalted, hsdd⟩ := hsdd
    exact .inl ⟨(Option.some.inj h).symm, hhalted, hsdd, htrap⟩
  · exact .inr (.inl (Option.some.inj h).symm)
  · exact .inr (.inr (haltCheck_eq_some h))

/-- At EL1 the two traps to EL2 stand before what EL1 and EL2 share. -/
theorem accessCheck_el1_eq_some {priority : Bool} {c : Context} {f : Fault}
    (h : accessCheck priority c .el1 = some f) :
    f = .sysAccessTrap .el2 0x05 ∨ f = .hypTrap 0x05 ∨ el3TrapCheck c = some f := by
  by_cases hearly : earlyUndefined priority c = true
  · rw [accessCheck, if_pos hearly] at h
    exact .inr (.inr ((el3TrapCheck_of_earlyUndefined hearly).trans h))
  · rw [accessCheck_el1, if_neg (earlyUndefined_iff.not.mp hearly)] at h
    split_ifs at h
    · exact .inl (Option.some.inj h).symm
    · exact .inr (.inl (Option.some.inj h).symm)
    · exact .inr (.inr h)

/-- A fault of an access is the Undefined of an existence check, or the outcome of the check of the level. -/
theorem access_eq_some {s : State} {n : Fin 16} {f : Fault} (h : access s n = some f) :
    (f = .undefined ∧ (s.impl.haveAnyAArch32 = false ∨ s.impl.implemented[n] = false))
      ∨ stateCheck s = some f := by
  unfold access at h
  split_ifs at h with ha hn hcheck hfirst
  · exact .inl ⟨(Option.some.inj h).symm, .inl (by simpa using ha)⟩
  · exact .inr h
  · exact .inl ⟨(Option.some.inj h).symm, .inr (by simpa using hn)⟩
  · exact .inl ⟨(Option.some.inj h).symm, .inr (by simpa using hn)⟩
  · exact .inr h

/-- The table of R73 for the check of a level: each outcome, with the levels that raise it. -/
theorem accessCheck_eq_some {priority : Bool} {c : Context} {el : EL} {f : Fault}
    (h : accessCheck priority c el = some f) :
    (f = .undefined ∧ (el = .el0 ∨ ((el = .el1 ∨ el = .el2) ∧ c.halted = true ∧ c.edscrSdd = true
        ∧ c.haveEL3 = true ∧ c.el3UsingAArch32 = false ∧ c.mdcrEl3Tda = true)))
      ∨ (f = .sysAccessTrap .el2 0x05 ∧ el = .el1) ∨ (f = .hypTrap 0x05 ∧ el = .el1)
      ∨ (f = .sysAccessTrap .el3 0x05 ∧ (el = .el1 ∨ el = .el2))
      ∨ (f = .halt .softwareAccess ∧ (el = .el1 ∨ el = .el2 ∨ el = .el3)) := by
  cases el with
  | el0 => simpa [accessCheck] using h.symm
  | el1 =>
    obtain rfl | rfl | h := accessCheck_el1_eq_some h
    · simp
    · simp
    · obtain ⟨rfl, hgrounds⟩ | rfl | rfl := el3TrapCheck_eq_some h
      · simp [hgrounds]
      · simp
      · simp
  | el2 =>
    rw [accessCheck_el2] at h
    obtain ⟨rfl, hgrounds⟩ | rfl | rfl := el3TrapCheck_eq_some h
    · simp [hgrounds]
    · simp
    · simp
  | el3 => simp [haltCheck_eq_some h]

theorem el1_or_el2_or_el3_of_ne_el0 {el : EL} (h : el ≠ .el0) : el = .el1 ∨ el = .el2 ∨ el = .el3 := by
  cases el with
  | el0 => exact absurd rfl h
  | el1 => exact .inl rfl
  | el2 => exact .inr (.inl rfl)
  | el3 => exact .inr (.inr rfl)

/-- Settles O15: the access proceeds, or fails an existence check, or meets an outcome of the check of its level. -/
theorem outcomesAreClosed : Obligations.OutcomesAreClosed := by
  intro i s hw
  cases ha : access s i.index with
  | none =>
    obtain ⟨t, ht⟩ := (exec_completes hw).mpr ha
    obtain ⟨-, hel⟩ := exec_next_implemented_and_level ht
    exact .inl ⟨t, ht, el1_or_el2_or_el3_of_ne_el0 hel⟩
  | some f =>
    have hf : exec i s = .fault f := (exec_eq_fault hw).mpr ha
    right
    simp only [hf, Host.Outcome.fault.injEq]
    obtain ⟨rfl, hmissing⟩ | hcheck := access_eq_some ha
    · exact .inl ⟨rfl, .inr (hmissing.imp_right .inl)⟩
    · obtain ⟨rfl, hgrounds⟩ | hother := accessCheck_eq_some hcheck
      · exact .inl ⟨rfl, hgrounds.imp_right fun h => .inr (.inr h)⟩
      · exact .inr hother

/-! ### The Exception level (R84) -/

/-- Settles O48: with no input pending the step is an instruction, and those complete above EL0 only. -/
theorem noInstructionCompletesAtEl0 : Obligations.NoInstructionCompletesAtEl0 := by
  intro s t hel hin h
  obtain ⟨i, rest, hi, -⟩ | ⟨-, -, i, u, -, hu, -⟩ := step_next h
  · simp [hin] at hi
  · obtain ⟨-, hne⟩ := exec_next_implemented_and_level hu
    exact hne hel

/-- An input that changes the level is a reset. -/
theorem applyInput_changes_el {i : Input} {s : State} (h : (applyInput i s).el ≠ s.el) :
    (∃ l, i = .coldReset l) ∨ ∃ l, i = .warmReset l := by
  cases i with
  | coldReset l => exact .inl ⟨l, rfl⟩
  | warmReset l => exact .inr ⟨l, rfl⟩
  | viewWrite v n w =>
    rw [applyInput_viewWrite] at h
    split at h
    · exact absurd rfl h
    · exact absurd rfl h
  | contextChange c => exact absurd rfl h
  | companionChange c => exact absurd rfl h

/-- Settles O49: by the two kinds of step. -/
theorem levelChangesByResetOnly : Obligations.LevelChangesByResetOnly := by
  intro s t h hne
  obtain ⟨i, rest, hi, rfl⟩ | ⟨-, -, i, u, -, hu, rfl⟩ := step_next h
  · obtain ⟨l, rfl⟩ | ⟨l, rfl⟩ := applyInput_changes_el (s := { s with inputs := rest }) hne
    · exact .inl ⟨l, rest, hi⟩
    · exact .inr ⟨l, rest, hi⟩
  · obtain ⟨-, hel⟩ := exec_next_keeps_ctx_and_el hu
    exact absurd hel hne

end Sys2Proof.Machine

/-! PROOFS. 70_reset_and_hazards.md: what the two resets leave (R87 to R90), what a read before the first write
gives (R87, R89), and the invariant that every step keeps (92 D18, log 11). -/

namespace Sys2Proof.Machine

/-! ### No breakpoint that may be enabled is forgotten (92 D18, log 11) -/

/-- A write leaves the register known, and records it if the value written has E = 1. -/
theorem enablesRecorded_writeDbgbcr {s : State} (n : Fin 16) (w : Word) (hs : EnablesRecorded s) :
    EnablesRecorded (writeDbgbcr n w s) := by
  intro m
  by_cases hm : m = n
  · subst hm
    simpa using Or.inr
  · obtain ⟨hbank, hunknown, hever⟩ := writeDbgbcr_keeps_other w s hm
    rw [hbank, hunknown, hever]
    exact hs m

/-- A Cold reset records every breakpoint, since E may be 1 after it. -/
theorem enablesRecorded_coldReset (s : State) : EnablesRecorded (coldReset s) := by
  intro n _
  simp

theorem applyInput_keeps_enablesRecorded (i : Input) {s : State} (hs : EnablesRecorded s) :
    EnablesRecorded (applyInput i s) := by
  cases i with
  | coldReset l => exact enablesRecorded_coldReset s
  | warmReset l => exact hs
  | viewWrite view n w =>
    rw [applyInput_viewWrite]
    split
    · exact enablesRecorded_writeDbgbcr n w hs
    · exact hs
  | contextChange c => exact hs
  | companionChange c => exact hs

theorem exec_next_keeps_enablesRecorded {i : Instr} {s u : State} (hs : EnablesRecorded s)
    (hu : exec i s = .next u) : EnablesRecorded u := by
  obtain ⟨-, -, ht, ⟨-, rfl⟩ | ⟨-, rfl⟩⟩ := exec_next hu
  · exact hs
  · exact enablesRecorded_writeDbgbcr i.index (getX ⟨i.rt.val, ht⟩ s) hs

/-- Settles O43: neither an input nor an instruction changes the program text; a write records its value's E, and a
Cold reset every breakpoint. -/
theorem stepKeepsTheInvariant : Obligations.StepKeepsTheInvariant := by
  rintro s t ⟨hwf, hs⟩ h
  obtain ⟨i, rest, -, rfl⟩ | ⟨-, -, i, u, -, hu, rfl⟩ := step_next h
  · obtain ⟨-, -, hmem⟩ := applyInput_keeps_configuration_and_text i { s with inputs := rest }
    exact ⟨by rw [hmem]; exact hwf, applyInput_keeps_enablesRecorded i (s := { s with inputs := rest }) hs⟩
  · obtain ⟨-, -, hmem⟩ := exec_next_keeps_configuration_and_text hu
    have hrecorded : EnablesRecorded u := exec_next_keeps_enablesRecorded hs hu
    exact ⟨by rw [afterInstruction_mem, hmem]; exact hwf, hrecorded⟩

/-- Settles O44: no program text is listed, and every breakpoint is recorded. -/
theorem resetMeetsTheInvariant : Obligations.ResetMeetsTheInvariant :=
  ⟨rfl, fun n _ => Vector.getElem_replicate n.isLt⟩

/-! ### A read before the first write (R87, R89) -/

/-- Only the RES0 ranges of the draw can come back changed, and the mask of the named fields cuts those out. -/
theorem readValue_unknown_and_named (p : Implementation) (n : Fin 16) (v d : Word) :
    readValue p n true v d &&& 0x00FFE1E7#32 = d &&& 0x00FFE1E7#32 := by
  have hmask : unpack 0x00FFE1E7#32 =
      ⟨0, .allOnes 4, .allOnes 4, .allOnes 2, .allOnes 1, 0, .allOnes 4, 0, .allOnes 2, .allOnes 1⟩ := by decide
  apply unpack_injective
  simp [unpack_and, hmask, unpack_readValue_unknown, unknownFields]

theorem readDbgbcr_of_unknown {s : State} {n : Fin 16} (h : s.unknown[n] = true) :
    readDbgbcr n s = readValue s.impl n true s.dbgbcr[n] (Config.freeWord s.draws) := by
  rw [readDbgbcr, h]

/-- Where the RES0 bits are not hardwired, `res0` of a draw is the draw, whether they store or not (log 8). -/
theorem res0_self_of_ne_hardwired {w : Nat} {stores : Option Bool} (h : stores ≠ some false) (d : BitVec w) :
    res0 stores d d = d := by
  cases stores with
  | none => exact BitVec.and_self
  | some b =>
    cases b with
    | false => exact absurd rfl h
    | true => rfl

/-- A register without a known value reads as the whole draw, unless its RES0 bits are hardwired. -/
theorem unknownFields_of_ne_hardwired {p : Implementation} (h : p.res0Stores ≠ some false) (d : Fields) :
    unknownFields p d = d := by
  simp only [unknownFields, res0_self_of_ne_hardwired h]

theorem unknownFields_of_hardwired {p : Implementation} (h : p.res0Stores = some false) (d : Fields) :
    (unknownFields p d).res31 = 0 ∧ (unknownFields p d).res12 = 0 ∧ (unknownFields p d).res4 = 0 := by
  simp only [unknownFields, h, res0, and_self]

/-- Settles O23: the allowed read completes with `ReadDBGBCR(n)`, whose fields are those of the draw. -/
theorem readBeforeTheFirstWriteIsADraw : Obligations.ReadBeforeTheFirstWriteIsADraw := by
  intro s t n i hi hallowed hunknown
  obtain ⟨hcompletes, -⟩ := mrcReadsTheRegisterIntoRt s t n i hi
  obtain ⟨s', hs', hx, -⟩ := hcompletes hallowed
  have hr : s'.x[t] = readValue s.impl n true s.dbgbcr[n] (Config.freeWord s.draws) := by
    simp [hx, readDbgbcr_of_unknown hunknown]
  refine ⟨s', hs', ?_⟩
  rw [hr, unpack_readValue_unknown]
  refine ⟨readValue_unknown_and_named .., fun h => ?_, fun h => unknownFields_of_hardwired h _, fun h => ?_⟩
  · rw [unknownFields_of_ne_hardwired (by simp [h])]
    exact ⟨rfl, rfl, rfl⟩
  · rw [unknownFields_of_ne_hardwired (by simp [h])]
    exact ⟨rfl, rfl, rfl⟩

/-! ### The state after reset (R87, log 7) -/

theorem reset_unknown (n : Fin 16) : State.reset.unknown[n] = true := Vector.getElem_replicate n.isLt

theorem reset_implemented (n : Fin 16) : State.reset.impl.implemented[n] = true := Vector.getElem_replicate n.isLt

/-- Settles O39: a breakpoint without a known value reads as a draw, and may fire if it is implemented. -/
theorem resetLeavesNoKnownBreakpoint : Obligations.ResetLeavesNoKnownBreakpoint := by
  intro n
  refine ⟨reset_unknown n, ?_, mayFire_iff.mpr ⟨rfl, reset_implemented n, .inl (reset_unknown n)⟩⟩
  rw [readDbgbcr_of_unknown (reset_unknown n)]
  exact readValue_unknown_and_named ..

/-! ### The reset inputs (R87, R88, R90) -/

/-- Settles O40: the step is the Cold reset of the bank and then the launch data. -/
theorem coldResetDrawsEveryField : Obligations.ColdResetDrawsEveryField := by
  intro s l rest hin
  refine ⟨relaunch l (coldReset { s with inputs := rest }), step_of_input hin, fun n => ?_, ?_⟩
  · simp
  · simp [keepConfig]

/-- Settles O41: the step leaves the bank with its marks, and takes the launch data. -/
theorem warmResetKeepsTheNamedFields : Obligations.WarmResetKeepsTheNamedFields := by
  intro s l rest hin
  refine ⟨relaunch l (warmReset { s with inputs := rest }), step_of_input hin, fun n => ?_, ?_⟩
  · simp
  · simp [keepConfig]

end Sys2Proof.Machine
